-- ==== Sys2Proof/Word.lean ====
section
/-! DEFINITION. The plainest types of the block: interface words, bytes of a serialized command
stream, the instance number of a command and the binary32 datum (00_scope.md R6 and R8,
20_memory.md R63 and R64, 30_encoding.md R81). -/

namespace Sys2Proof

/-- A whole 32-bit interface word: CMD, DATA, RESP0, RESP1 or STATUS (20_memory.md R63). -/
abbrev Word := BitVec 32

/-- One byte of a serialized command stream (20_memory.md R64). -/
abbrev Byte := BitVec 8

/-- The INST field of CMD, bits 23:16: the number `n` of `ENV[n]`, `OSC[n]` or `FLT[n]`
(30_encoding.md R81). -/
abbrev InstNo := BitVec 8

/-- An IEEE 754 binary32 datum, held as its 32-bit pattern with the sign at bit 31
(00_scope.md R8, 20_memory.md R64). Every pattern is a value: zeros of both signs, subnormals,
infinities and NaNs of any payload. It is a type of its own so that no bit-vector comparison or
sum is ever taken for a binary32 one. `f32(DATA)` of the spec is `F32.mk`, `bits32(v)` is
`F32.bits` (00_scope.md R7). -/
structure F32 where
  bits : Word
  deriving DecidableEq, Repr, Inhabited

end Sys2Proof
end

