-- ==== Sys2Proof/Config.lean ====
section
/-! DEFINITION. The configuration of 00_scope.md R5, each name spelled as there, and the free
values: results no rule states. Binary32 constants are written as their patterns (00_scope.md R13);
Sys2Proof/Tests/Slice0.lean checks each pattern against the decimal the spec gives. The parameters
of R5 stand at the spec's values (assumption log 9). -/

namespace Sys2Proof.Config

/-! ### Unit counts (R5, decision D9) -/

/-- `NUM_ENV`: instance 0 the amplitude envelope, instance 1 the filter envelope. -/
abbrev NUM_ENV : Nat := 2

/-- `NUM_OSC`. -/
abbrev NUM_OSC : Nat := 1

/-- `NUM_FLT`: instance 0 left, instance 1 right. -/
abbrev NUM_FLT : Nat := 2

/-- `N_VOICES`: the voices of an oscillator. -/
abbrev N_VOICES : Nat := 7

/-- `FLT_FREQ_STEPS` (FS): the frequency steps of the coefficient table. -/
abbrev FS : Nat := 512

/-- `FLT_RES_STEPS` (RS): the resonance steps of the coefficient table. -/
abbrev RS : Nat := 32

/-! ### Sample rates (R5, decisions D11 and D36) -/

/-- 8000.0. -/
def SR_MIN : F32 := ⟨0x45FA0000#32⟩

/-- 192000.0. -/
def SR_MAX : F32 := ⟨0x483B8000#32⟩

/-- 48000.0. -/
def SR_RESET : F32 := ⟨0x473B8000#32⟩

/-! ### Envelope (R5, R13) -/

/-- RN(0.001). -/
def ENV_TIME_MIN : F32 := ⟨0x3A83126F#32⟩

/-- 5.0. -/
def ENV_TIME_MAX : F32 := ⟨0x40A00000#32⟩

/-- +0.0. -/
def ENV_ADD_MIN : F32 := ⟨0x00000000#32⟩

/-- 5.0. -/
def ENV_ADD_MAX : F32 := ⟨0x40A00000#32⟩

/-- 1.0. -/
def ENV_CURVE_MIN : F32 := ⟨0x3F800000#32⟩

/-- 4.0. -/
def ENV_CURVE_MAX : F32 := ⟨0x40800000#32⟩

/-- RN(0.0001): a decay at or below it is over. -/
def ENV_OFF_LEVEL : F32 := ⟨0x38D1B717#32⟩

/-- RN(0.01), the attack time `ENV.INIT` writes. -/
def ENV_ATTACK_INIT : F32 := ⟨0x3C23D70A#32⟩

/-- RN(0.1), the decay time `ENV.INIT` writes. -/
def ENV_DECAY_INIT : F32 := ⟨0x3DCCCCCD#32⟩

/-! ### Oscillator (R5, R13) -/

/-- `CENTS[i]`: 0, -3, +3, -7, +7, -12, +12. -/
def CENTS : Vector F32 N_VOICES :=
  #v[⟨0x00000000#32⟩, ⟨0xC0400000#32⟩, ⟨0x40400000#32⟩, ⟨0xC0E00000#32⟩, ⟨0x40E00000#32⟩,
     ⟨0xC1400000#32⟩, ⟨0x41400000#32⟩]

/-- `PAN[i]`: 0, -RN(1/3), +RN(1/3), -RN(2/3), +RN(2/3), -1, +1. -/
def PAN : Vector F32 N_VOICES :=
  #v[⟨0x00000000#32⟩, ⟨0xBEAAAAAB#32⟩, ⟨0x3EAAAAAB#32⟩, ⟨0xBF2AAAAB#32⟩, ⟨0x3F2AAAAB#32⟩,
     ⟨0xBF800000#32⟩, ⟨0x3F800000#32⟩]

/-- `NORM7`: RN(1.0 / SQRT(7.0)). -/
def NORM7 : F32 := ⟨0x3EC18490#32⟩

/-- `PI32`: RN(π). -/
def PI32 : F32 := ⟨0x40490FDB#32⟩

/-- `TWO_PI32`: RN(2π). -/
def TWO_PI32 : F32 := ⟨0x40C90FDB#32⟩

/-- 440.0 Hz. -/
def A4_HZ : F32 := ⟨0x43DC0000#32⟩

/-- 1200.0 cents an octave. -/
def CENTS_PER_OCTAVE : F32 := ⟨0x44960000#32⟩

/-- 12.0 notes an octave. -/
def NOTES_PER_OCTAVE : F32 := ⟨0x41400000#32⟩

/-! ### Filter (R5, decisions D28 and D35) -/

/-- `FLT_MIN_FREQ`: 20.0 Hz. -/
def FLT_MIN_FREQ : F32 := ⟨0x41A00000#32⟩

/-- 20000.0 Hz, the highest value `FLT_MAX_FREQ(sr)` takes. -/
def FLT_TOP_FREQ : F32 := ⟨0x469C4000#32⟩

/-- RN(0.45), the share of the sample rate that bounds `FLT_MAX_FREQ(sr)`. -/
def FLT_NYQUIST_SHARE : F32 := ⟨0x3EE66666#32⟩

/-- `FLT_MIN_Q`: 0.5. -/
def FLT_MIN_Q : F32 := ⟨0x3F000000#32⟩

/-- `FLT_MAX_Q`: 20.0. -/
def FLT_MAX_Q : F32 := ⟨0x41A00000#32⟩

/-- `FLT_COMP(i, j)`: 1.0 for every cell. -/
def FLT_COMP (_i _j : Nat) : F32 := ⟨0x3F800000#32⟩

/-- `FLT_CEIL`: 4.0, the ceiling of 42_filter.md R210: an assumption about runs, which no rule
uses (decision D47). -/
def FLT_CEIL : F32 := ⟨0x40800000#32⟩

/-! ### Plain constants (R13) -/

/-- 0.5. -/
def HALF : F32 := ⟨0x3F000000#32⟩

/-- 1.0. -/
def ONE : F32 := ⟨0x3F800000#32⟩

/-- 2.0. -/
def TWO : F32 := ⟨0x40000000#32⟩

/-! ### Free values

00_scope.md R9 gives each function its value on the arguments below only by the exact real result,
and these arguments have none. No rule passes them (assumption log 3). -/

/-- `POW(x, c)` where `x` is negative, infinite or NaN, or `c` is outside [0, 4] or NaN. -/
opaque freePow : F32 → F32 → F32

/-- `EXP2` of an infinity or a NaN. -/
opaque freeExp2 : F32 → F32

/-- `TAN` of an infinity or a NaN. -/
opaque freeTan : F32 → F32

/-- `SIN` of an infinity or a NaN. -/
opaque freeSin : F32 → F32

end Sys2Proof.Config
end

