-- ==== Sys2Proof/Syntax.lean ====
section
/-! DEFINITION. The commands of the block: the record the host delivers (30_encoding.md R80), the
named values of the immediate forms (R83), and one constructor of `Instr` per row of
spec/opcode_table.json (R86), in the table's order. -/

namespace Sys2Proof

/-- A command record: the CMD word, which selects the operation, and the DATA word, its operand
(30_encoding.md R80). -/
structure Command where
  cmd : Word
  data : Word
  deriving DecidableEq, Repr

/-- The waveform mode of an oscillator, codes 0, 1 and 2 of IMM form MODE2 (10_state.md R24,
30_encoding.md R83). -/
inductive OscMode where
  | unison
  | saw1
  | sine
  deriving DecidableEq, Repr

/-- The lookup policy of a filter, codes 0 and 1 of IMM form BIT1 (10_state.md R26,
30_encoding.md R83). -/
inductive Lookup where
  | nearest
  | bilinear
  deriving DecidableEq, Repr

/-- The commands. `n` is the INST field; a DATA word of form F is carried as the binary32 value it
is; a DATA word of form X is ignored and not carried (30_encoding.md R82). -/
inductive Instr where
  /-- `SYS.NOP` -/
  | sysNop
  /-- `SYS.RDSTATUS` -/
  | sysRdStatus
  /-- `SYS.CLRSTATUS` -/
  | sysClrStatus
  /-- `SYS.RESET` -/
  | sysReset
  /-- `ENV.INIT en, sampleRate` -/
  | envInit (n : InstNo) (sampleRate : F32)
  /-- `ENV.SETATTACK en, seconds` -/
  | envSetAttack (n : InstNo) (seconds : F32)
  /-- `ENV.ADDATTACK en, seconds` -/
  | envAddAttack (n : InstNo) (seconds : F32)
  /-- `ENV.SETDECAY en, seconds` -/
  | envSetDecay (n : InstNo) (seconds : F32)
  /-- `ENV.ADDDECAY en, seconds` -/
  | envAddDecay (n : InstNo) (seconds : F32)
  /-- `ENV.SETSCALE en, amount` -/
  | envSetScale (n : InstNo) (amount : F32)
  /-- `ENV.SETCURVE en, exponent` -/
  | envSetCurve (n : InstNo) (exponent : F32)
  /-- `ENV.TRIGGER en` -/
  | envTrigger (n : InstNo)
  /-- `ENV.RELEASE en` -/
  | envRelease (n : InstNo)
  /-- `ENV.PROCESS en` -/
  | envProcess (n : InstNo)
  /-- `ENV.GETLAST en` -/
  | envGetLast (n : InstNo)
  /-- `ENV.GETSTAGE en` -/
  | envGetStage (n : InstNo)
  /-- `OSC.INIT on, sampleRate` -/
  | oscInit (n : InstNo) (sampleRate : F32)
  /-- `OSC.SETNOTE on, note` -/
  | oscSetNote (n : InstNo) (note : BitVec 7)
  /-- `OSC.SETFREQ on, hz` -/
  | oscSetFreq (n : InstNo) (hz : F32)
  /-- `OSC.SETAMP on, amount` -/
  | oscSetAmp (n : InstNo) (amount : F32)
  /-- `OSC.SETDETUNE on, amount` -/
  | oscSetDetune (n : InstNo) (amount : F32)
  /-- `OSC.PROCESS on` -/
  | oscProcess (n : InstNo)
  /-- `OSC.SETMODE on, mode` -/
  | oscSetMode (n : InstNo) (mode : OscMode)
  /-- `FLT.INIT fn, sampleRate` -/
  | fltInit (n : InstNo) (sampleRate : F32)
  /-- `FLT.SETFREQ fn, position` -/
  | fltSetFreq (n : InstNo) (position : F32)
  /-- `FLT.ADDFREQ fn, position` -/
  | fltAddFreq (n : InstNo) (position : F32)
  /-- `FLT.SETQ fn, position` -/
  | fltSetQ (n : InstNo) (position : F32)
  /-- `FLT.GETFREQ fn` -/
  | fltGetFreq (n : InstNo)
  /-- `FLT.GETQ fn` -/
  | fltGetQ (n : InstNo)
  /-- `FLT.PROCESS fn, sample` -/
  | fltProcess (n : InstNo) (sample : F32)
  /-- `FLT.SETLOOKUP fn, mode` -/
  | fltSetLookup (n : InstNo) (mode : Lookup)
  deriving DecidableEq, Repr

end Sys2Proof
end

