-- ==== Sys2Proof/WellFormed.lean ====
section
/-! DEFINITION. Which commands are well-formed: those whose instance number is below the unit's
instance count (30_encoding.md R84, condition 3). The other conditions of R84 (assigned UNIT and
OP, a legal IMM) hold of every term of `Instr` by its constructors and their field types. -/

namespace Sys2Proof

/-- `INST < NUM_ENV`. -/
def envInstOk (n : InstNo) : Bool := decide (n.toNat < Config.NUM_ENV)

/-- `INST < NUM_OSC`. -/
def oscInstOk (n : InstNo) : Bool := decide (n.toNat < Config.NUM_OSC)

/-- `INST < NUM_FLT`. -/
def fltInstOk (n : InstNo) : Bool := decide (n.toNat < Config.NUM_FLT)

/-- The command is legal in this configuration (30_encoding.md R84). -/
def Instr.wellFormed : Instr → Bool
  | .sysNop => true
  | .sysRdStatus => true
  | .sysClrStatus => true
  | .sysReset => true
  | .envInit n _ => envInstOk n
  | .envSetAttack n _ => envInstOk n
  | .envAddAttack n _ => envInstOk n
  | .envSetDecay n _ => envInstOk n
  | .envAddDecay n _ => envInstOk n
  | .envSetScale n _ => envInstOk n
  | .envSetCurve n _ => envInstOk n
  | .envTrigger n => envInstOk n
  | .envRelease n => envInstOk n
  | .envProcess n => envInstOk n
  | .envGetLast n => envInstOk n
  | .envGetStage n => envInstOk n
  | .oscInit n _ => oscInstOk n
  | .oscSetNote n _ => oscInstOk n
  | .oscSetFreq n _ => oscInstOk n
  | .oscSetAmp n _ => oscInstOk n
  | .oscSetDetune n _ => oscInstOk n
  | .oscProcess n => oscInstOk n
  | .oscSetMode n _ => oscInstOk n
  | .fltInit n _ => fltInstOk n
  | .fltSetFreq n _ => fltInstOk n
  | .fltAddFreq n _ => fltInstOk n
  | .fltSetQ n _ => fltInstOk n
  | .fltGetFreq n => fltInstOk n
  | .fltGetQ n => fltInstOk n
  | .fltProcess n _ => fltInstOk n
  | .fltSetLookup n _ => fltInstOk n

end Sys2Proof
end

