-- ==== Sys2Proof/Decode.lean ====
section
/-! DEFINITION. Decoding (30_encoding.md R80 to R89): the fields of CMD, the immediate forms, the
opcode map, and the serialized form of a record (20_memory.md R64); then the encoder, written from
the same tables. Decoding is total: a CMD word is one row of R86 or it is rejected by name. -/

namespace Sys2Proof

/-- Why a CMD word is illegal (30_encoding.md R84, R87), or why bytes are no record. The block
records none of this: every illegal word has the one effect of R85 (assumption log 7). -/
inductive DecodeError where
  /-- UNIT 4 to 15. -/
  | reservedUnit
  /-- An OP the unit does not assign. -/
  | reservedOp
  /-- A non-zero INST on SYS, or an INST at or above the unit's instance count. -/
  | instOutOfRange
  /-- An IMM that fails the condition of the operation's form. -/
  | badImmediate
  /-- Fewer than the eight bytes of a record (20_memory.md R65). -/
  | truncated
  deriving DecidableEq, Repr

/-! ### The fields of CMD (R81) -/

/-- `UNIT`, bits 31:28. -/
def unitField (w : Word) : Nat := w.toNat / 2 ^ 28

/-- `OP`, bits 27:24. -/
def opField (w : Word) : Nat := w.toNat / 2 ^ 24 % 2 ^ 4

/-- `INST`, bits 23:16. -/
def instField (w : Word) : InstNo := BitVec.ofNat 8 (w.toNat / 2 ^ 16)

/-- `IMM`, bits 15:0. -/
def immField (w : Word) : Nat := w.toNat % 2 ^ 16

/-! ### The immediate forms (R83) -/

/-- Form `Z`: IMM = 0. -/
def formZ (imm : Nat) (i : Instr) : Except DecodeError Instr :=
  if imm = 0 then .ok i else .error .badImmediate

/-- Form `NOTE7`: IMM[15:7] = 0, and IMM[6:0] is the note. -/
def formNote7 (imm : Nat) (f : BitVec 7 → Instr) : Except DecodeError Instr :=
  if imm < 2 ^ 7 then .ok (f (BitVec.ofNat 7 imm)) else .error .badImmediate

/-- Form `MODE2`: IMM is 0, 1 or 2. -/
def formMode2 (imm : Nat) (f : OscMode → Instr) : Except DecodeError Instr :=
  match imm with
  | 0 => .ok (f .unison)
  | 1 => .ok (f .saw1)
  | 2 => .ok (f .sine)
  | _ => .error .badImmediate

/-- Form `BIT1`: IMM is 0 or 1. -/
def formBit1 (imm : Nat) (f : Lookup → Instr) : Except DecodeError Instr :=
  match imm with
  | 0 => .ok (f .nearest)
  | 1 => .ok (f .bilinear)
  | _ => .error .badImmediate

/-! ### The opcode map (R86), one function per unit -/

/-- UNIT 0. -/
def decodeSys (op imm : Nat) : Except DecodeError Instr :=
  match op with
  | 0 => formZ imm .sysNop
  | 1 => formZ imm .sysRdStatus
  | 2 => formZ imm .sysClrStatus
  | 3 => formZ imm .sysReset
  | _ => .error .reservedOp

/-- UNIT 1. -/
def decodeEnv (op : Nat) (n : InstNo) (imm : Nat) (d : F32) : Except DecodeError Instr :=
  match op with
  | 0 => formZ imm (.envInit n d)
  | 1 => formZ imm (.envSetAttack n d)
  | 2 => formZ imm (.envAddAttack n d)
  | 3 => formZ imm (.envSetDecay n d)
  | 4 => formZ imm (.envAddDecay n d)
  | 5 => formZ imm (.envSetScale n d)
  | 6 => formZ imm (.envSetCurve n d)
  | 7 => formZ imm (.envTrigger n)
  | 8 => formZ imm (.envRelease n)
  | 9 => formZ imm (.envProcess n)
  | 10 => formZ imm (.envGetLast n)
  | 11 => formZ imm (.envGetStage n)
  | _ => .error .reservedOp

/-- UNIT 2. -/
def decodeOsc (op : Nat) (n : InstNo) (imm : Nat) (d : F32) : Except DecodeError Instr :=
  match op with
  | 0 => formZ imm (.oscInit n d)
  | 1 => formNote7 imm (.oscSetNote n)
  | 2 => formZ imm (.oscSetFreq n d)
  | 3 => formZ imm (.oscSetAmp n d)
  | 4 => formZ imm (.oscSetDetune n d)
  | 5 => formZ imm (.oscProcess n)
  | 6 => formMode2 imm (.oscSetMode n)
  | _ => .error .reservedOp

/-- UNIT 3. -/
def decodeFlt (op : Nat) (n : InstNo) (imm : Nat) (d : F32) : Except DecodeError Instr :=
  match op with
  | 0 => formZ imm (.fltInit n d)
  | 1 => formZ imm (.fltSetFreq n d)
  | 2 => formZ imm (.fltAddFreq n d)
  | 3 => formZ imm (.fltSetQ n d)
  | 4 => formZ imm (.fltGetFreq n)
  | 5 => formZ imm (.fltGetQ n)
  | 6 => formZ imm (.fltProcess n d)
  | 7 => formBit1 imm (.fltSetLookup n)
  | _ => .error .reservedOp

/-- A command record to its instruction, or the reason it is illegal. Legality depends on CMD and
the configuration alone (R84); DATA is only carried. -/
def decode (c : Command) : Except DecodeError Instr :=
  let n := instField c.cmd
  match unitField c.cmd with
  | 0 => if n = 0#8 then decodeSys (opField c.cmd) (immField c.cmd) else .error .instOutOfRange
  | 1 =>
    if envInstOk n then decodeEnv (opField c.cmd) n (immField c.cmd) ⟨c.data⟩
    else .error .instOutOfRange
  | 2 =>
    if oscInstOk n then decodeOsc (opField c.cmd) n (immField c.cmd) ⟨c.data⟩
    else .error .instOutOfRange
  | 3 =>
    if fltInstOk n then decodeFlt (opField c.cmd) n (immField c.cmd) ⟨c.data⟩
    else .error .instOutOfRange
  | _ => .error .reservedUnit

/-! ### Records as bytes (20_memory.md R64): CMD little-endian, then DATA little-endian -/

/-- A word from its bytes, the least significant one first. -/
def wordOfBytes (b0 b1 b2 b3 : Byte) : Word :=
  BitVec.ofNat 32 (b0.toNat + b1.toNat * 2 ^ 8 + b2.toNat * 2 ^ 16 + b3.toNat * 2 ^ 24)

/-- Byte `i` of a word, byte 0 the least significant. -/
def byteOfWord (w : Word) (i : Nat) : Byte := BitVec.ofNat 8 (w.toNat / 2 ^ (8 * i))

/-- The bytes of a word, the least significant one first. -/
def bytesOfWord (w : Word) : List Byte :=
  [byteOfWord w 0, byteOfWord w 1, byteOfWord w 2, byteOfWord w 3]

/-- The eight bytes of a record. -/
def Command.toBytes (c : Command) : List Byte := bytesOfWord c.cmd ++ bytesOfWord c.data

/-- The record at the front of a byte stream, and the rest of the stream. -/
def Command.ofBytes : List Byte → Option (Command × List Byte)
  | b0 :: b1 :: b2 :: b3 :: b4 :: b5 :: b6 :: b7 :: rest =>
    some (⟨wordOfBytes b0 b1 b2 b3, wordOfBytes b4 b5 b6 b7⟩, rest)
  | _ => none

/-- The instruction at the front of a byte stream, and the rest of the stream. Total on any
bytes. -/
def decodeBytes (bs : List Byte) : Except DecodeError (Instr × List Byte) :=
  match Command.ofBytes bs with
  | none => .error .truncated
  | some (c, rest) =>
    match decode c with
    | .ok i => .ok (i, rest)
    | .error e => .error e

/-! ### The numbering of spec/opcode_table.json -/

/-- The record whose bits are `w`, bit 0 the least significant bit of CMD and bit 32 that of DATA;
the bits from `nbits` on are 0. -/
def commandOfBits (nbits w : Nat) : Command :=
  ⟨BitVec.ofNat 32 (w % 2 ^ nbits), BitVec.ofNat 32 (w % 2 ^ nbits / 2 ^ 32)⟩

/-- The instruction the decoder reads from the record whose bits are `w`, laid out as bytes. -/
def decodeTableWord (nbits w : Nat) : Option Instr :=
  match decodeBytes (commandOfBits nbits w).toBytes with
  | .ok (i, _) => some i
  | .error _ => none

/-! ### The encoder -/

/-- The CMD word of a command: `(UNIT << 28) | (OP << 24) | (INST << 16) | IMM` (R86). -/
def cmdWord (unit op : Nat) (n : InstNo) (imm : Nat) : Word :=
  BitVec.ofNat 32 (unit * 2 ^ 28 + op * 2 ^ 24 + n.toNat * 2 ^ 16 + imm)

/-- The code of a waveform mode (10_state.md R24). -/
def OscMode.code : OscMode → Nat
  | .unison => 0
  | .saw1 => 1
  | .sine => 2

/-- The code of a lookup policy (10_state.md R26). -/
def Lookup.code : Lookup → Nat
  | .nearest => 0
  | .bilinear => 1

/-- A record with a DATA word of form F. -/
def recordF (unit op : Nat) (n : InstNo) (d : F32) : Command := ⟨cmdWord unit op n 0, d.bits⟩

/-- A record with a DATA word of form X, which the assembler emits as zero (R82; assumption log
19). -/
def recordX (unit op : Nat) (n : InstNo) (imm : Nat) : Command := ⟨cmdWord unit op n imm, 0#32⟩

/-- The record of a command (R86). -/
def encode : Instr → Command
  | .sysNop => recordX 0 0 0 0
  | .sysRdStatus => recordX 0 1 0 0
  | .sysClrStatus => recordX 0 2 0 0
  | .sysReset => recordX 0 3 0 0
  | .envInit n d => recordF 1 0 n d
  | .envSetAttack n d => recordF 1 1 n d
  | .envAddAttack n d => recordF 1 2 n d
  | .envSetDecay n d => recordF 1 3 n d
  | .envAddDecay n d => recordF 1 4 n d
  | .envSetScale n d => recordF 1 5 n d
  | .envSetCurve n d => recordF 1 6 n d
  | .envTrigger n => recordX 1 7 n 0
  | .envRelease n => recordX 1 8 n 0
  | .envProcess n => recordX 1 9 n 0
  | .envGetLast n => recordX 1 10 n 0
  | .envGetStage n => recordX 1 11 n 0
  | .oscInit n d => recordF 2 0 n d
  | .oscSetNote n note => recordX 2 1 n note.toNat
  | .oscSetFreq n d => recordF 2 2 n d
  | .oscSetAmp n d => recordF 2 3 n d
  | .oscSetDetune n d => recordF 2 4 n d
  | .oscProcess n => recordX 2 5 n 0
  | .oscSetMode n mode => recordX 2 6 n mode.code
  | .fltInit n d => recordF 3 0 n d
  | .fltSetFreq n d => recordF 3 1 n d
  | .fltAddFreq n d => recordF 3 2 n d
  | .fltSetQ n d => recordF 3 3 n d
  | .fltGetFreq n => recordX 3 4 n 0
  | .fltGetQ n => recordX 3 5 n 0
  | .fltProcess n d => recordF 3 6 n d
  | .fltSetLookup n mode => recordX 3 7 n mode.code

/-- A command stream as bytes. -/
def encodeBytes (is : List Instr) : List Byte := is.flatMap fun i => (encode i).toBytes

end Sys2Proof
end

