-- ==== Sys2Proof/Machine/Flags.lean ====
section
/-! DEFINITION. The status bits of the block. It has no condition codes, carry, overflow or
predicate flags (10_state.md R30); its one flag is `STATUS.ILLEGAL` (R28). -/

namespace Sys2Proof

/-- `STATUS` with bit 0, `ILLEGAL`, set to 1 and every other bit kept (30_encoding.md R85). -/
def statusSetIllegal (status : Word) : Word := status ||| 0x00000001#32

/-- `STATUS` cleared (43_system.md R242). -/
def statusCleared : Word := 0x00000000#32

end Sys2Proof
end

