-- ==== Sys2Proof/Machine/Binary32.lean ====
section
/-! DEFINITION. Binary32 arithmetic and comparison (00_scope.md R8, R10 and R11): every operation
rounds once, to nearest with ties to even; subnormals are kept; a NaN result is 0x7FC00000; there
is no fused operation and no wider intermediate.

Every finite binary32 value is a whole multiple of 2^-149, so its magnitude is a natural number
of units of 2^-149 and sums, products and quotients are exact before the one rounding. Signs of
zeros and infinities are those of IEEE 754 (assumption log 10). The whole file is
computable by structural recursion and natural-number arithmetic. -/

namespace Sys2Proof

/-! ### Reading a pattern -/

/-- The sign bit, bit 31. -/
def F32.sign (x : F32) : Bool := decide (2 ^ 31 ≤ x.bits.toNat)

/-- The pattern without its sign bit: exponent field over fraction field. -/
def F32.low (x : F32) : Nat := x.bits.toNat % 2 ^ 31

/-- The pattern of +Inf, the least pattern above every finite magnitude. -/
def F32.infLow : Nat := 0x7F800000

def F32.isNaN (x : F32) : Bool := decide (F32.infLow < x.low)

def F32.isInf (x : F32) : Bool := decide (x.low = F32.infLow)

def F32.isFinite (x : F32) : Bool := decide (x.low < F32.infLow)

/-- How many units of 2^-149 a finite magnitude pattern stands for. -/
def F32.magOf (low : Nat) : Nat :=
  match low / 2 ^ 23 with
  | 0 => low
  | e + 1 => (2 ^ 23 + low % 2 ^ 23) * 2 ^ e

/-- The magnitude of a finite value, in units of 2^-149. -/
def F32.mag (x : F32) : Nat := F32.magOf x.low

/-- A finite value, in units of 2^-149. -/
def F32.val (x : F32) : Int := if x.sign then -(x.mag : Int) else (x.mag : Int)

/-! ### Writing a pattern -/

/-- The pattern with the given sign and magnitude pattern. -/
def F32.ofLow (neg : Bool) (low : Nat) : F32 :=
  ⟨BitVec.ofNat 32 (if neg then 2 ^ 31 + low else low)⟩

/-- The quiet NaN every NaN result is (00_scope.md R8). -/
def F32.qNaN : F32 := ⟨0x7FC00000#32⟩

/-- +0.0. -/
def F32.zero : F32 := ⟨0x00000000#32⟩

/-- The sign turned over, the payload kept. -/
def F32.neg (x : F32) : F32 := F32.ofLow (!x.sign) x.low

def F32.inf (neg : Bool) : F32 := F32.ofLow neg F32.infLow

/-! ### Rounding -/

/-- `num / den` to the nearest integer, ties to even. -/
def divEven (num den : Nat) : Nat :=
  let m := num / den
  let r := num % den
  if 2 * r < den then m
  else if den < 2 * r then m + 1
  else m + m % 2

/-- The magnitude pattern of `num / den` units of 2^-149, rounded with `2 ^ shift` units a
last-place step. A significand carried up to 2^24 lands in the next binade by itself, and what
reaches the pattern of Inf overflows to it. -/
def roundAt (shift num den : Nat) : Nat :=
  min (shift * 2 ^ 23 + divEven num (den * 2 ^ shift)) F32.infLow

/-- `RN` (00_scope.md R8): the magnitude pattern nearest to `num / den` units of 2^-149, ties to
even. Below 2^24 units the step is one unit (subnormals and the first normal binade); above, the
significand keeps 24 bits. -/
def roundMag (num den : Nat) : Nat :=
  roundAt ((num / den).log2 - 23) num den

/-- `RN` of the signed rational `±num / den` units of 2^-149. -/
def roundSigned (neg : Bool) (num den : Nat) : F32 := F32.ofLow neg (roundMag num den)

/-- `RN(num / den)` for a nonnegative rational, in the ordinary scale. -/
def F32.ofRat (num den : Nat) : F32 := roundSigned false (num * 2 ^ 149) den

/-- `f32_of_int(k)`: exact for every integer the rules convert (00_scope.md R8). -/
def F32.ofInt (k : Int) : F32 := roundSigned (decide (k < 0)) (k.natAbs * 2 ^ 149) 1

/-! ### The four operations and the square root (00_scope.md R8, R9) -/

/-- A finite sum: an exact zero is +0.0 unless both operands are negative zeros. -/
def F32.addFinite (x y : F32) : F32 :=
  match x.val + y.val with
  | Int.ofNat 0 => F32.ofLow (x.sign && y.sign) 0
  | Int.ofNat (k + 1) => roundSigned false (k + 1) 1
  | Int.negSucc k => roundSigned true (k + 1) 1

/-- `x + y`. -/
def F32.add (x y : F32) : F32 :=
  if x.isNaN || y.isNaN then F32.qNaN
  else if x.isInf then
    if y.isInf && (x.sign != y.sign) then F32.qNaN else x
  else if y.isInf then y
  else F32.addFinite x y

/-- `x - y`. -/
def F32.sub (x y : F32) : F32 := F32.add x y.neg

/-- `x · y`. -/
def F32.mul (x y : F32) : F32 :=
  if x.isNaN || y.isNaN then F32.qNaN
  else if x.isInf || y.isInf then
    if x.low == 0 || y.low == 0 then F32.qNaN else F32.inf (x.sign != y.sign)
  else roundSigned (x.sign != y.sign) (x.mag * y.mag) (2 ^ 149)

/-- `x / y`; a finite non-zero value over zero is the infinity of IEEE 754, though no rule divides
by zero (60_exceptions.md R261). -/
def F32.div (x y : F32) : F32 :=
  if x.isNaN || y.isNaN then F32.qNaN
  else if x.isInf then
    if y.isInf then F32.qNaN else F32.inf (x.sign != y.sign)
  else if y.isInf then F32.ofLow (x.sign != y.sign) 0
  else if y.low == 0 then
    if x.low == 0 then F32.qNaN else F32.inf (x.sign != y.sign)
  else roundSigned (x.sign != y.sign) (x.mag * 2 ^ 149) y.mag

/-- Newton's iteration for the integer square root, from an estimate not below it. -/
def isqrtFrom (n : Nat) : Nat → Nat → Nat
  | 0, est => est
  | fuel + 1, est =>
    match (est + n / est) / 2 with
    | 0 => 0
    | next + 1 => if next + 1 < est then isqrtFrom n fuel (next + 1) else est

/-- The integer square root: the greatest `s` with `s * s ≤ n`. The first estimate is within a
factor of two above the root, so each round of the fuel at least doubles the good bits. -/
def isqrt (n : Nat) : Nat := isqrtFrom n (n.log2 + 2) (2 ^ (n.log2 / 2 + 1))

/-- The rational strictly between `root` and `root + 1` that stands for an inexact root: no
rounding boundary lies inside that gap, so it rounds as the root does. In half units. -/
def stickyHalf (root : Nat) (exact : Bool) : Nat := if exact then 2 * root else 2 * root + 1

/-- `SQRT(x)` of a positive finite magnitude, in units of 2^-149. -/
def sqrtMag (k : Nat) : Nat :=
  let n := k * 2 ^ 149
  let s := isqrt n
  roundMag (stickyHalf s (s * s == n)) 2

/-- `SQRT(x)`, the IEEE 754 square root (00_scope.md R9). -/
def F32.sqrt (x : F32) : F32 :=
  if x.isNaN then F32.qNaN
  else if x.low == 0 then x
  else if x.sign then F32.qNaN
  else if x.isInf then x
  else F32.ofLow false (sqrtMag x.mag)

/-! ### Comparisons (00_scope.md R11) -/

/-- The order of the patterns that are not NaN: both zeros at 0, the infinities at the ends. -/
def F32.ord (x : F32) : Int := if x.sign then -(x.low : Int) else (x.low : Int)

/-- `x < y`: false when either operand is NaN. -/
def F32.lt (x y : F32) : Bool := !x.isNaN && !y.isNaN && decide (x.ord < y.ord)

/-- `x <= y`: false when either operand is NaN; +0.0 equals -0.0. -/
def F32.le (x y : F32) : Bool := !x.isNaN && !y.isNaN && decide (x.ord ≤ y.ord)

/-- `x > y`. -/
def F32.gt (x y : F32) : Bool := F32.lt y x

/-- `x >= y`. -/
def F32.ge (x y : F32) : Bool := F32.le y x

/-! ### `clamp`, `min1`, `floor_int` (00_scope.md R10, R11) -/

/-- `clamp(x, lo, hi)`: NaN and everything at or below `lo` (so -0.0 for `lo` = +0.0) give `lo`. -/
def F32.clamp (x lo hi : F32) : F32 :=
  if x.isNaN || x.le lo then lo
  else if x.ge hi then hi
  else x

/-- 1.0. -/
def F32.one : F32 := ⟨0x3F800000#32⟩

/-- `min1(x)`: 1.0 when `x > 1.0`, else `x` itself. -/
def F32.min1 (x : F32) : F32 := if x.gt F32.one then F32.one else x

/-- `floor_int(x)`, defined only for finite `x >= 0` (00_scope.md R11). -/
def F32.floorInt (x : F32) : Option Nat :=
  if x.isFinite && F32.zero.le x then some (x.mag / 2 ^ 149) else none

end Sys2Proof
end

