-- ==== Sys2Proof/Machine/Enclosure.lean ====
section
/-! DEFINITION. Rational enclosures of the elementary functions, and the rounding of an enclosure:
the machinery behind the correctly rounded functions of 00_scope.md R9 (decision D4).

A fixed-point number of precision `p` is a natural `n` that stands for `n / 2 ^ p`. Each function
here comes as a lower bound, computed with every division rounded down, and an upper bound, computed
with every division rounded up, so the exact real result lies between the two. Everything is
structural recursion over natural numbers. -/

namespace Sys2Proof

/-- A nonnegative rational, in units of 2^-149 where it bounds a result. -/
structure Ratio where
  num : Nat
  den : Nat
  deriving DecidableEq, Repr

/-- Bounds on an exact real result. -/
structure Enclosure where
  lo : Ratio
  hi : Ratio
  deriving DecidableEq, Repr

/-- Bounds on a fixed-point number. -/
structure Bounds where
  lo : Nat
  hi : Nat
  deriving DecidableEq, Repr

/-- The pattern a rational rounds to. -/
def Ratio.round (r : Ratio) : Nat := roundMag r.num r.den

/-- The pattern of the exact result: at the first precision at which both bounds round to the same
pattern, that pattern, which is then the correctly rounded one. The last precision decides by its
lower bound (assumption log 2). -/
def settle (enc : Nat → Enclosure) : Nat → List Nat → Nat
  | p, [] => (enc p).lo.round
  | p, next :: rest =>
    let e := enc p
    if e.lo.round = e.hi.round then e.lo.round else settle enc next rest

/-- The precisions tried in turn: a first one that settles almost every argument, and two more. -/
def settleAll (enc : Nat → Enclosure) : Nat := settle enc 96 [192, 384]

/-- Division rounded up. -/
def cdiv (a b : Nat) : Nat := (a + (b - 1)) / b

/-! ### Constants -/

/-- The precision of the constants below. -/
abbrev constPrec : Nat := 512

/-- The first 512 fractional bits of ln 2: `ln2 / 2^512 < ln 2 < (ln2 + 1) / 2^512`. -/
def ln2Bits : Nat :=
  0xb17217f7d1cf79abc9e3b39803f2f6af40f343267298b62d8a0d175b8baafa2be7b876206debac98559552fb4afa1b10ed2eae35c138214427573b291169b825

/-- The first 512 fractional bits of π/2, likewise. -/
def halfPiBits : Nat :=
  0x1921fb54442d18469898cc51701b839a252049c1114cf98e804177d4c76273644a29410f31c6809bbdf2a33679a748636605614dbe4be286e9fc26adadaa3848b

/-! ### Powers of two with a fractional exponent -/

/-- Lower bound of `1 + (y/1)(1 + (y/2)(1 + ... (y/k)(acc)))`. -/
def expLo (one y : Nat) : Nat → Nat → Nat
  | 0, acc => acc
  | k + 1, acc => expLo one y k (one + y * acc / (one * (k + 1)))

/-- Upper bound of the same. -/
def expHi (one y : Nat) : Nat → Nat → Nat
  | 0, acc => acc
  | k + 1, acc => expHi one y k (one + cdiv (y * acc) (one * (k + 1)))

/-- Lower bound of `2 ^ t` for `t` in [0, 1], which is e to the `t · ln 2`: the exponential series
cut off, which only lowers it. `2 ^ t` is at most 2. -/
def exp2FracLo (p t : Nat) : Nat :=
  min (2 * 2 ^ p) (expLo (2 ^ p) (t * ln2Bits / 2 ^ constPrec) (p / 4) (2 ^ p))

/-- Upper bound of `2 ^ t` for `t` in [0, 1]: the rest of the series beyond its `p / 4` terms is
at most twice its first factor. -/
def exp2FracHi (p t : Nat) : Nat :=
  min (2 * 2 ^ p)
    (expHi (2 ^ p) (cdiv (t * (ln2Bits + 1)) (2 ^ constPrec)) (p / 4) (2 * 2 ^ p))

/-- `f / 2 ^ p` times `2 ^ n`, in units of 2^-149. -/
def scaleBy (p f : Nat) (n : Int) : Ratio :=
  match n + 149 with
  | Int.ofNat e => ⟨f * 2 ^ e, 2 ^ p⟩
  | Int.negSucc e => ⟨f, 2 ^ p * 2 ^ (e + 1)⟩

/-- Lower bound of `2 ^ y` for a signed fixed-point `y`. -/
def exp2Lo (p : Nat) (y : Int) : Ratio :=
  scaleBy p (exp2FracLo p (y % 2 ^ p).toNat) (y / 2 ^ p)

/-- Upper bound of `2 ^ y`. -/
def exp2Hi (p : Nat) (y : Int) : Ratio :=
  scaleBy p (exp2FracHi p (y % 2 ^ p).toNat) (y / 2 ^ p)

/-- Integer division rounded up. -/
def cdivInt (a b : Int) : Int := -(-a / b)

/-- Bounds on `2 ^ v`, for a `v` that is a signed number of units of 2^-149. -/
def exp2Enclosure (v : Int) (p : Nat) : Enclosure :=
  ⟨exp2Lo p (v * 2 ^ p / 2 ^ 149), exp2Hi p (cdivInt (v * 2 ^ p) (2 ^ 149))⟩

/-! ### Logarithm to base two -/

/-- Lower bound of `1 + w(1/3 + w(1/5 + ... w(acc)))`, from the term of index `k - 1` down. -/
def atanhLo (one w : Nat) : Nat → Nat → Nat
  | 0, acc => acc
  | k + 1, acc => atanhLo one w k (one / (2 * k + 1) + w * acc / one)

/-- Upper bound of the same. -/
def atanhHi (one w : Nat) : Nat → Nat → Nat
  | 0, acc => acc
  | k + 1, acc => atanhHi one w k (cdiv one (2 * k + 1) + cdiv (w * acc) one)

/-- Bounds on `log2 m` for `m = k / 2 ^ l` in [1, 2): ln m is twice the inverse hyperbolic tangent
of `z = (m - 1) / (m + 1)`, at most 1/3, whose series has the factor `z · z`. -/
def log2Frac (p k l : Nat) : Bounds :=
  let one := 2 ^ p
  let zLo := (k - 2 ^ l) * one / (k + 2 ^ l)
  let zHi := cdiv ((k - 2 ^ l) * one) (k + 2 ^ l)
  let sLo := atanhLo one (zLo * zLo / one) (p / 3) 0
  let sHi := atanhHi one (cdiv (zHi * zHi) one) (p / 3) one
  ⟨2 * zLo * sLo * 2 ^ constPrec / (one * (ln2Bits + 1)),
   min one (cdiv (2 * zHi * sHi * 2 ^ constPrec) (one * ln2Bits))⟩

/-- Bounds on `x ^ c = 2 ^ (c · log2 x)` for `x` of `k > 0` units and `c` of `cu` units of
2^-149. -/
def powEnclosure (k cu p : Nat) : Enclosure :=
  let l := k.log2
  let b := log2Frac p k l
  let e : Int := ((l : Int) - 149) * 2 ^ p
  ⟨exp2Lo p ((e + (b.lo : Int)) * (cu : Int) / 2 ^ 149),
   exp2Hi p (cdivInt ((e + (b.hi : Int)) * (cu : Int)) (2 ^ 149))⟩

/-! ### Rational powers with an exact root test -/

/-- The fractional bits an eighth root is taken with. -/
abbrev rootPrec : Nat := 480

/-- The pattern of `x ^ (n / 8)` for `x` of `k` units and `n` at most 32: the eighth root of an
exact integer power, rounded once. These exponents are the ones for which a result can lie exactly
half way between two patterns (assumption log 8). -/
def powEighths (k n : Nat) : Nat :=
  let a := k ^ n * 2 ^ (149 * 8 + rootPrec * 8 - 149 * n)
  let r := isqrt (isqrt (isqrt a))
  roundMag (stickyHalf r (r ^ 8 == a)) (2 * 2 ^ rootPrec)

/-! ### Sine and cosine of an angle reduced to the first quarter turn -/

/-- Bounds on `1 - (w/d₁)(1 - (w/d₂)(...))`, where `d k` is the k-th divisor: each bound of one
level comes from the opposite bound of the next. -/
def alternating (one wLo wHi : Nat) (d : Nat → Nat) : Nat → Nat → Nat → Bounds
  | 0, lo, hi => ⟨lo, hi⟩
  | k + 1, lo, hi =>
    alternating one wLo wHi d k (one - cdiv (wHi * hi) (one * d (k + 1)))
      (one - wLo * lo / (one * d (k + 1)))

/-- An angle as a number of whole quarter turns and bounds on the rest, to 512 bits. -/
structure QuarterTurns where
  quarters : Nat
  rest : Bounds
  deriving DecidableEq, Repr

/-- The reduction of an angle of `k` units of 2^-149. -/
def reduceAngle (k : Nat) : QuarterTurns :=
  let x := k * 2 ^ (constPrec - 149)
  let q := x / (halfPiBits + 1)
  ⟨q, ⟨x - q * (halfPiBits + 1), x - q * halfPiBits⟩⟩

/-- The bounds of the rest at precision `p`. -/
def restAt (p : Nat) (b : Bounds) : Bounds :=
  ⟨b.lo / 2 ^ (constPrec - p), cdiv b.hi (2 ^ (constPrec - p))⟩

/-- Bounds on the sine of an angle in the first quarter turn. -/
def sinBounds (p : Nat) (r : Bounds) : Bounds :=
  let one := 2 ^ p
  let s := alternating one (r.lo * r.lo / one) (cdiv (r.hi * r.hi) one)
    (fun k => 2 * k * (2 * k + 1)) (p / 4) 0 one
  ⟨min one (r.lo * s.lo / one), min one (cdiv (r.hi * s.hi) one)⟩

/-- Bounds on the cosine of an angle in the first quarter turn. -/
def cosBounds (p : Nat) (r : Bounds) : Bounds :=
  let one := 2 ^ p
  alternating one (r.lo * r.lo / one) (cdiv (r.hi * r.hi) one)
    (fun k => (2 * k - 1) * (2 * k)) (p / 4) 0 one

/-- A fixed-point number as a rational in units of 2^-149. -/
def fixedRatio (p n : Nat) : Ratio := ⟨n * 2 ^ 149, 2 ^ p⟩

/-- Bounds on the magnitude of the sine. -/
def sinEnclosure (t : QuarterTurns) (p : Nat) : Enclosure :=
  let r := restAt p t.rest
  let b := if t.quarters % 2 = 0 then sinBounds p r else cosBounds p r
  ⟨fixedRatio p b.lo, fixedRatio p b.hi⟩

/-- Bounds on a quotient; a divisor not known to be positive leaves the quotient unbounded, which
the value 2^128 stands for. -/
def quotientEnclosure (a b : Bounds) : Enclosure :=
  ⟨⟨a.lo * 2 ^ 149, b.hi⟩, if b.lo = 0 then ⟨2 ^ 277, 1⟩ else ⟨a.hi * 2 ^ 149, b.lo⟩⟩

/-- Bounds on the magnitude of the tangent. -/
def tanEnclosure (t : QuarterTurns) (p : Nat) : Enclosure :=
  let r := restAt p t.rest
  if t.quarters % 2 = 0 then quotientEnclosure (sinBounds p r) (cosBounds p r)
  else quotientEnclosure (cosBounds p r) (sinBounds p r)

/-! ### Hyperbolic tangent -/

/-- Bounds on `tanh x = (e - 1) / (e + 1)` for `x` of `k` units, where `e` is the exponential of
`2x`, that is 2 to the `2x / ln 2`. -/
def tanhEnclosure (k p : Nat) : Enclosure :=
  let one := 2 ^ p
  let tLo := 2 * k * one * 2 ^ constPrec / (2 ^ 149 * (ln2Bits + 1))
  let tHi := cdiv (2 * k * one * 2 ^ constPrec) (2 ^ 149 * ln2Bits)
  let eLo := exp2FracLo p (tLo % one) * 2 ^ (tLo / one)
  let eHi := exp2FracHi p (tHi % one) * 2 ^ (tHi / one)
  ⟨⟨(eLo - one) * 2 ^ 149, eLo + one⟩, ⟨(eHi - one) * 2 ^ 149, eHi + one⟩⟩

end Sys2Proof
end

