-- ==== Sys2Proof/Machine/Functions.lean ====
section
/-! DEFINITION. The transcendental functions of the block, `POW`, `EXP2`, `TAN`, `TANH` and `SIN`,
at the value 00_scope.md R9 gives them: the binary32 value nearest (ties to even) the exact real
result. Arguments for which there is no exact real result, and for which R9 states none, give the
free values of Config. -/

namespace Sys2Proof

/-- The domain of `POW` in R9: finite `x >= 0` and `c` in [0, 4]. -/
def powDomain (x c : F32) : Bool :=
  x.isFinite && F32.zero.le x && F32.zero.le c && c.le ⟨0x40800000#32⟩

/-- The magnitude pattern of `x ^ c`, for `x` of `k > 0` units and `c` of `cu` units of 2^-149.
Exponents that are whole eighths go through an exact root, the others through enclosures. -/
def powMag (k cu : Nat) : Nat :=
  if cu % 2 ^ 146 = 0 then powEighths k (cu / 2 ^ 146) else settleAll (powEnclosure k cu)

/-- `POW(x, c)`; `POW(+0, c) = +0`, and so for -0.0 (assumption log 18). -/
def POW (x c : F32) : F32 :=
  if powDomain x c then
    if x.low = 0 then F32.zero else F32.ofLow false (powMag x.mag c.mag)
  else Config.freePow x c

/-- The magnitude pattern of `2 ^ v` for `v` units of 2^-149, with an exponent at which the result
is neither beyond the largest finite value nor below half the smallest. -/
def exp2Mag (v : Int) : Nat := settleAll (exp2Enclosure v)

/-- `EXP2(x)`: 2^128 and more overflow, and what is below 2^-150 rounds to +0 (assumption log 8). -/
def EXP2 (x : F32) : F32 :=
  if x.isFinite then
    if 128 ≤ x.val / 2 ^ 149 then F32.inf false
    else if x.val / 2 ^ 149 < -150 then F32.zero
    else F32.ofLow false (exp2Mag x.val)
  else Config.freeExp2 x

/-- Magnitudes up to 2^-13, in units of 2^-149: there `SIN`, `TAN` and `TANH` differ from their
argument by less than half a step of it, so they round to the argument (assumption log 8). -/
abbrev tinyMag : Nat := 2 ^ 136

/-- `SIN(x)`; the sine changes sign each half turn and with its argument. -/
def SIN (x : F32) : F32 :=
  if x.isFinite then
    if x.mag ≤ tinyMag then x
    else
      let t := reduceAngle x.mag
      F32.ofLow (x.sign != decide (2 ≤ t.quarters % 4)) (settleAll (sinEnclosure t))
  else Config.freeSin x

/-- `TAN(x)`; the tangent changes sign each quarter turn and with its argument. -/
def TAN (x : F32) : F32 :=
  if x.isFinite then
    if x.mag ≤ tinyMag then x
    else
      let t := reduceAngle x.mag
      F32.ofLow (x.sign != decide (t.quarters % 2 = 1)) (settleAll (tanEnclosure t))
  else Config.freeTan x

/-- The magnitude pattern of `tanh` of `k` units; from 10.0 on, 1 is the nearest value
(assumption log 8). -/
def tanhMag (k : Nat) : Nat :=
  if 10 * 2 ^ 149 ≤ k then 0x3F800000 else settleAll (tanhEnclosure k)

/-- `TANH(x)`: odd, `TANH(±Inf) = ±1`, `TANH(NaN) = NaN`. -/
def TANH (x : F32) : F32 :=
  if x.isNaN then F32.qNaN
  else if x.isInf then F32.ofLow x.sign 0x3F800000
  else if x.mag ≤ tinyMag then x
  else F32.ofLow x.sign (tanhMag x.mag)

end Sys2Proof
end

