-- ==== Sys2Proof/Machine/Operands.lean ====
section
/-! DEFINITION. The value a setter makes of its operand: the clamps of 40_envelope.md R111 to R117,
41_oscillator.md R151 to R155 and 42_filter.md R201 to R204, and the note operand of R152. Every
DATA pattern is accepted (30_encoding.md R82); NaN gives the lower bound (00_scope.md R10). -/

namespace Sys2Proof

/-- A sample rate in Hz, clamped to [`SR_MIN`, `SR_MAX`]. -/
def rateOperand (d : F32) : F32 := F32.clamp d Config.SR_MIN Config.SR_MAX

/-- An attack or decay time in seconds, clamped to [RN(0.001), 5.0]. -/
def timeOperand (d : F32) : F32 := F32.clamp d Config.ENV_TIME_MIN Config.ENV_TIME_MAX

/-- An attack or decay modulation in seconds, clamped to [+0.0, 5.0]. -/
def addOperand (d : F32) : F32 := F32.clamp d Config.ENV_ADD_MIN Config.ENV_ADD_MAX

/-- A curve exponent, clamped to [1.0, 4.0]. -/
def curveOperand (d : F32) : F32 := F32.clamp d Config.ENV_CURVE_MIN Config.ENV_CURVE_MAX

/-- An amount or a position, clamped to [+0.0, 1.0]. -/
def unitOperand (d : F32) : F32 := F32.clamp d F32.zero Config.ONE

/-- The highest base frequency at a sample rate, `sampleRate / 2.0`. -/
def halfRate (sampleRate : F32) : F32 := F32.div sampleRate Config.TWO

/-- A base frequency in Hz, clamped to [+0.0, sampleRate / 2.0]. -/
def frequencyOperand (hz sampleRate : F32) : F32 :=
  F32.clamp hz F32.zero (halfRate sampleRate)

/-- `440.0 · EXP2((note - 69) / 12.0)` (R152), before the clamp. -/
def noteHz (note : BitVec 7) : F32 :=
  F32.mul Config.A4_HZ
    (EXP2 (F32.div (F32.ofInt ((note.toNat : Int) - 69)) Config.NOTES_PER_OCTAVE))

end Sys2Proof
end

