-- ==== Sys2Proof/Machine/Units.lean ====
section
/-! DEFINITION. The state of one instance of each unit kind, field by field as 10_state.md R22, R24
and R26 list them, the coefficient table of R27 and 20_memory.md R60, and the stage codes of
R23. -/

namespace Sys2Proof.Machine

/-- The stage of an envelope; no other value exists (R23). -/
inductive Stage where
  | off
  | attack
  | decay
  deriving DecidableEq, Repr

/-- An envelope instance `ENV[n]` (R22). -/
structure EnvUnit where
  stage : Stage
  stageTime : F32
  sampleIncrement : F32
  attackTime : F32
  attackAdd : F32
  decayTime : F32
  decayAdd : F32
  curveExponent : F32
  outputScale : F32
  lastOutput : F32
  deriving DecidableEq, Repr

/-- An oscillator instance `OSC[n]` (R24); the three arrays are indexed by voice (R32). -/
structure OscUnit where
  sampleRate : F32
  baseFrequency : F32
  detuneAmount : F32
  amplitude : F32
  mode : OscMode
  frequency : Vector F32 Config.N_VOICES
  phaseIncrement : Vector F32 Config.N_VOICES
  phase : Vector F32 Config.N_VOICES
  deriving DecidableEq, Repr

/-- A filter instance `FLT[n]` (R26). `cutoffAddition` keeps any pattern, NaN payloads too. -/
structure FltUnit where
  cutoffPosition : F32
  cutoffAddition : F32
  resonancePosition : F32
  interp : Lookup
  s1 : F32
  s2 : F32
  deriving DecidableEq, Repr

/-- An entry of the coefficient table: integrator gain, damping, output compensation
(20_memory.md R60). -/
structure Entry where
  g : F32
  R : F32
  comp : F32
  deriving DecidableEq, Repr

/-- The coefficient table `TAB` (R27): the sample rate it was built for, and `entry[j][i]` for the
resonance step `j` and the frequency step `i`. It is the block's only memory (20_memory.md R60),
and it is exactly RS by FS entries, so that no shape has to be assumed of a state
(assumption log 17). -/
structure Table where
  sr : F32
  entry : Vector (Vector Entry Config.FS) Config.RS
  deriving DecidableEq, Repr

end Sys2Proof.Machine
end

