-- ==== Sys2Proof/Machine/Init.lean ====
section
/-! DEFINITION. The bodies of the INIT commands and what they run: `recompute` (41_oscillator.md
R150) and `BuildTable` (42_filter.md R190). Reset runs the same bodies (70_reset_and_hazards.md
R280). -/

namespace Sys2Proof.Machine

/-! ### Envelope -/

/-- The body of `ENV.INIT` (40_envelope.md R111). -/
def envInitBody (d : F32) : EnvUnit where
  stage := .off
  stageTime := F32.zero
  sampleIncrement := F32.div Config.ONE (rateOperand d)
  attackTime := Config.ENV_ATTACK_INIT
  attackAdd := F32.zero
  decayTime := Config.ENV_DECAY_INIT
  decayAdd := F32.zero
  curveExponent := Config.ONE
  outputScale := Config.ONE
  lastOutput := F32.zero

/-! ### Oscillator -/

/-- `O.baseFrequency · EXP2((CENTS[i] · O.detuneAmount) / 1200.0)`. -/
def voiceFrequency (o : OscUnit) (i : Fin Config.N_VOICES) : F32 :=
  F32.mul o.baseFrequency
    (EXP2 (F32.div (F32.mul Config.CENTS[i] o.detuneAmount) Config.CENTS_PER_OCTAVE))

/-- `recompute(O)` (R150): every voice's frequency and phase increment, from the values just
written (assumption log 5); the phases are kept. -/
def recompute (o : OscUnit) : OscUnit :=
  { o with
    frequency := Vector.ofFn fun i => voiceFrequency o i
    phaseIncrement := Vector.ofFn fun i => F32.div (voiceFrequency o i) o.sampleRate }

/-- The body of `OSC.INIT` (R151). -/
def oscInitBody (d : F32) : OscUnit :=
  recompute
    { sampleRate := rateOperand d
      baseFrequency := Config.A4_HZ
      detuneAmount := F32.zero
      amplitude := F32.zero
      mode := .unison
      frequency := Vector.ofFn fun _ => F32.zero
      phaseIncrement := Vector.ofFn fun _ => F32.zero
      phase := Vector.ofFn fun _ => F32.zero }

/-! ### Filter and coefficient table -/

/-- What the body of `FLT.INIT` writes into the instance (42_filter.md R201). -/
def fltInitBody : FltUnit where
  cutoffPosition := Config.ONE
  cutoffAddition := F32.zero
  resonancePosition := F32.zero
  interp := .bilinear
  s1 := F32.zero
  s2 := F32.zero

/-- The list of `f i, f (i + 1), ...` of the given length. -/
def tabulateFrom {α : Type} (f : Nat → α) : Nat → Nat → List α
  | 0, _ => []
  | len + 1, i => f i :: tabulateFrom f len (i + 1)

theorem length_tabulateFrom {α : Type} (f : Nat → α) (len i : Nat) :
    (tabulateFrom f len i).length = len := by
  induction len generalizing i with
  | zero => rfl
  | succ len ih => simp [tabulateFrom, ih]

/-- The vector of `f 0, f 1, ...`, by structural recursion on the length. -/
def tabulate {α : Type} (n : Nat) (f : Nat → α) : Vector α n :=
  ⟨(tabulateFrom f n 0).toArray, by simp [length_tabulateFrom]⟩

/-- `FLT_MAX_FREQ(sr)`: 20000.0 if `20000.0 <= RN(RN(0.45) · sr)`, else that product
(00_scope.md R5). -/
def fltMaxFreq (sr : F32) : F32 :=
  if Config.FLT_TOP_FREQ.le (F32.mul Config.FLT_NYQUIST_SHARE sr) then Config.FLT_TOP_FREQ
  else F32.mul Config.FLT_NYQUIST_SHARE sr

/-- The cutoff frequency at a position of the frequency axis, in [0, 1]:
`FLT_MIN_FREQ · POW(maxF / FLT_MIN_FREQ, position)` (R190, R205). -/
def cutoffHz (sr position : F32) : F32 :=
  F32.mul Config.FLT_MIN_FREQ (POW (F32.div (fltMaxFreq sr) Config.FLT_MIN_FREQ) position)

/-- The Q at a position of the resonance axis, in [0, 1]:
`FLT_MIN_Q + (FLT_MAX_Q - FLT_MIN_Q) · position` (R190, R206). -/
def resonanceQ (position : F32) : F32 :=
  F32.add Config.FLT_MIN_Q (F32.mul (F32.sub Config.FLT_MAX_Q Config.FLT_MIN_Q) position)

/-- The position of step `k` of an axis of `steps` points: `f32(k) / f32(steps - 1)`. -/
def axisPosition (k steps : Nat) : F32 := F32.div (F32.ofInt k) (F32.ofInt (steps - 1 : Nat))

/-- `g_i = TAN((PI32 · f_i) / sr)` (R190). -/
def tableG (sr : F32) (i : Nat) : F32 :=
  TAN (F32.div (F32.mul Config.PI32 (cutoffHz sr (axisPosition i Config.FS))) sr)

/-- `R_j = 1.0 / (2.0 · Q_j)` (R190). -/
def tableR (j : Nat) : F32 :=
  F32.div Config.ONE (F32.mul Config.TWO (resonanceQ (axisPosition j Config.RS)))

/-- `BuildTable(sr)` (R190): the entry at `(j, i)` is `{ g_i, R_j, FLT_COMP(i, j) }`. -/
def buildTable (sr : F32) : Table where
  sr := sr
  entry := tabulate Config.RS fun j =>
    tabulate Config.FS fun i => ⟨tableG sr i, tableR j, Config.FLT_COMP i j⟩

end Sys2Proof.Machine
end

