-- ==== Sys2Proof/Machine/State.lean ====
section
/-! DEFINITION. The state of the block (10_state.md R20 to R34), the reasons a step can stop, and
the state right after reset (70_reset_and_hazards.md R280). -/

namespace Sys2Proof.Machine

/-- The reasons the machine stops with a fault. -/
inductive Fault where
  /-- A filter lookup formed a table index from a resonance position that is not a number in
  [0, 1]. `TabRead` is defined only for indices in range (20_memory.md R60) and `floor_int` only for
  finite values at or above zero (00_scope.md R11). Raised by `execFltProcess` alone, and only in
  states no run from reset reaches: every command keeps `resonancePosition` in [0, 1]
  (10_state.md R26). Safe: the model stops, and claims nothing. -/
  | tableIndex
  deriving DecidableEq, Repr

/-- The reasons an instruction has no meaning. -/
inductive Refusal where
  /-- The instruction of this mnemonic is not modelled yet. No arm of `exec` raises it: every row
  of the opcode table has its meaning. Safe. -/
  | notModelled (mnemonic : String)
  deriving DecidableEq, Repr

/-- The whole state of the block, and the command port. -/
structure State where
  /-- `ENV[n]` (R22). -/
  env : Vector EnvUnit Config.NUM_ENV
  /-- `OSC[n]` (R24). -/
  osc : Vector OscUnit Config.NUM_OSC
  /-- `FLT[n]` (R26). -/
  flt : Vector FltUnit Config.NUM_FLT
  /-- `TAB` (R27). -/
  tab : Table
  /-- `STATUS` (R28). -/
  status : Word
  /-- `RESP0` (R29). -/
  resp0 : Word
  /-- `RESP1` (R29). -/
  resp1 : Word
  /-- The model's own field: the command records the host has sent and the block has not executed,
  the next one first (30_encoding.md R80, 60_exceptions.md R274; assumption log 1). -/
  port : List Command
  deriving DecidableEq, Repr

/-- Right after power-up: every unit's INIT body at `SR_RESET`, the table built for `SR_RESET`, the
interface registers zero (R280), and no command sent yet (R281). -/
def State.reset : State where
  env := Vector.ofFn fun _ => envInitBody Config.SR_RESET
  osc := Vector.ofFn fun _ => oscInitBody Config.SR_RESET
  flt := Vector.ofFn fun _ => fltInitBody
  tab := buildTable Config.SR_RESET
  status := 0x00000000#32
  resp0 := 0x00000000#32
  resp1 := 0x00000000#32
  port := []

end Sys2Proof.Machine
end

