-- ==== Sys2Proof/Machine/Ops.lean ====
section
/-! DEFINITION. The named operations over the state: selecting and writing an instance, the response
registers, the one error effect, reset, and taking a record from the command port.

The block takes no exception and returns from none (60_exceptions.md R260, R264, R265); what stands
in that place is `setIllegal`, the one effect of every illegal command. -/

namespace Sys2Proof.Machine

/-- What one step answers. -/
abbrev Result := Host.Outcome State Fault Refusal

/-! ### The error effect (30_encoding.md R85) -/

/-- `set_illegal()`: STATUS[0] <- 1, and nothing else changes. -/
def setIllegal (s : State) : State := { s with status := statusSetIllegal s.status }

/-! ### Instances -/

/-- Write the envelope instance `n`. -/
def setEnv (s : State) (n : InstNo) (e : EnvUnit) : State :=
  { s with env := s.env.setIfInBounds n.toNat e }

/-- Write the oscillator instance `n`. -/
def setOsc (s : State) (n : InstNo) (o : OscUnit) : State :=
  { s with osc := s.osc.setIfInBounds n.toNat o }

/-- Write the filter instance `n`. -/
def setFlt (s : State) (n : InstNo) (f : FltUnit) : State :=
  { s with flt := s.flt.setIfInBounds n.toNat f }

/-- Run a command on the envelope instance `n`. A command whose instance is out of range is illegal
and executes `set_illegal()` instead of its rule (30_encoding.md R84, R85, R87; assumption log 14). -/
def withEnv (n : InstNo) (s : State) (k : EnvUnit → Result) : Result :=
  if h : n.toNat < Config.NUM_ENV then k s.env[n.toNat] else .next (setIllegal s)

/-- Run a command on the oscillator instance `n`, likewise. -/
def withOsc (n : InstNo) (s : State) (k : OscUnit → Result) : Result :=
  if h : n.toNat < Config.NUM_OSC then k s.osc[n.toNat] else .next (setIllegal s)

/-- Run a command on the filter instance `n`, likewise. -/
def withFlt (n : InstNo) (s : State) (k : FltUnit → Result) : Result :=
  if h : n.toNat < Config.NUM_FLT then k s.flt[n.toNat] else .next (setIllegal s)

/-! ### Responses (10_state.md R29) -/

/-- `RESP0 <- w`; RESP1 is kept. -/
def respond0 (s : State) (w : Word) : State := { s with resp0 := w }

/-- `RESP0 <- w0` and `RESP1 <- w1`. -/
def respondBoth (s : State) (w0 w1 : Word) : State := { s with resp0 := w0, resp1 := w1 }

/-! ### The coefficient table (20_memory.md R60) -/

/-- `TabRead(j, i)`, for indices in range. -/
def tabRead (t : Table) (j : Fin Config.RS) (i : Fin Config.FS) : Entry := t.entry[j][i]

/-- `TAB <- BuildTable(sr)`, for every filter instance at once (42_filter.md R193). -/
def rebuildTable (s : State) (sr : F32) : State := { s with tab := buildTable sr }

/-! ### Reset and the command port -/

/-- The reset sequence (70_reset_and_hazards.md R280) of the whole block. The records still on the
port are the host's, not the block's (10_state.md R21), and stay. -/
def resetBlock (s : State) : State := { State.reset with port := s.port }

/-- Put a record where the next step takes its command from. -/
def deliver (s : State) (c : Command) : State := { s with port := c :: s.port }

/-- Take the next record from the port: the record, and the state the command then runs in. With no
record waiting there is none. -/
def takeCommand (s : State) : Option (Command × State) :=
  match s.port with
  | [] => none
  | c :: rest => some (c, { s with port := rest })

end Sys2Proof.Machine
end

