-- ==== Sys2Proof/Machine/Envelope.lean ====
section
/-! DEFINITION. The meanings of the ENV commands (40_envelope.md). `E` of the spec is the argument
`e`. -/

namespace Sys2Proof.Machine

/-! ### What the commands compute on one instance -/

/-- `attackTime + attackAdd`. -/
def attackLength (e : EnvUnit) : F32 := F32.add e.attackTime e.attackAdd

/-- `decayTime + decayAdd`. -/
def decayLength (e : EnvUnit) : F32 := F32.add e.decayTime e.decayAdd

/-- The stage time after one more sample. -/
def nextStageTime (e : EnvUnit) : F32 := F32.add e.stageTime e.sampleIncrement

/-- The attack ramp at the next sample: `POW(st / T, curveExponent)`. -/
def attackRamp (e : EnvUnit) : F32 :=
  POW (F32.div (nextStageTime e) (attackLength e)) e.curveExponent

/-- The decay ramp at the next sample: `POW(1.0 - min1(st / T), curveExponent)`. -/
def decayRamp (e : EnvUnit) : F32 :=
  POW (F32.sub Config.ONE (F32.min1 (F32.div (nextStageTime e) (decayLength e)))) e.curveExponent

/-- One sample of the attack (R120): its end outputs 1.0 and moves to the decay. -/
def attackSample (e : EnvUnit) : EnvUnit :=
  if (attackRamp e).ge Config.ONE then
    { e with stage := .decay, stageTime := F32.zero, lastOutput := Config.ONE }
  else { e with stageTime := nextStageTime e, lastOutput := attackRamp e }

/-- One sample of the decay (R120): its end outputs +0.0 and moves to `Off`. -/
def decaySample (e : EnvUnit) : EnvUnit :=
  if (decayRamp e).le Config.ENV_OFF_LEVEL then
    { e with stage := .off, stageTime := F32.zero, lastOutput := F32.zero }
  else { e with stageTime := nextStageTime e, lastOutput := decayRamp e }

/-- One sample of the envelope (R120); `lastOutput` is the unscaled ramp value, written in `Off` too
(assumption log 13). -/
def envSample (e : EnvUnit) : EnvUnit :=
  match e.stage with
  | .off => { e with lastOutput := F32.zero }
  | .attack => attackSample e
  | .decay => decaySample e

/-- The response of `ENV.PROCESS`: the new `lastOutput` scaled. -/
def envOutput (e : EnvUnit) : F32 := F32.mul e.lastOutput e.outputScale

/-- `ENV.TRIGGER` (R118): the attack starts from zero, or from the position of the last output. -/
def envTriggered (e : EnvUnit) : EnvUnit :=
  if e.lastOutput.gt F32.zero then
    { e with stage := .attack, stageTime := F32.mul e.lastOutput (attackLength e) }
  else { e with stage := .attack, stageTime := F32.zero }

/-- `ENV.RELEASE` (R119): an attack ends, any other stage is kept. -/
def envReleased (e : EnvUnit) : EnvUnit :=
  match e.stage with
  | .attack => { e with stage := .decay, stageTime := F32.zero }
  | .off => e
  | .decay => e

/-- The stage codes (10_state.md R23). -/
def stageCode : Stage → Word
  | .off => 0x00000000#32
  | .attack => 0x00000001#32
  | .decay => 0x00000002#32

/-! ### The meanings -/

/-- `ENV.INIT en, sampleRate` (R111). -/
def execEnvInit (n : InstNo) (sampleRate : F32) (s : State) : Result :=
  withEnv n s fun _ => .next (setEnv s n (envInitBody sampleRate))

/-- `ENV.SETATTACK en, seconds` (R112). -/
def execEnvSetAttack (n : InstNo) (seconds : F32) (s : State) : Result :=
  withEnv n s fun e => .next (setEnv s n { e with attackTime := timeOperand seconds })

/-- `ENV.ADDATTACK en, seconds` (R113): the value replaces `attackAdd`. -/
def execEnvAddAttack (n : InstNo) (seconds : F32) (s : State) : Result :=
  withEnv n s fun e => .next (setEnv s n { e with attackAdd := addOperand seconds })

/-- `ENV.SETDECAY en, seconds` (R114). -/
def execEnvSetDecay (n : InstNo) (seconds : F32) (s : State) : Result :=
  withEnv n s fun e => .next (setEnv s n { e with decayTime := timeOperand seconds })

/-- `ENV.ADDDECAY en, seconds` (R115). -/
def execEnvAddDecay (n : InstNo) (seconds : F32) (s : State) : Result :=
  withEnv n s fun e => .next (setEnv s n { e with decayAdd := addOperand seconds })

/-- `ENV.SETSCALE en, amount` (R116). -/
def execEnvSetScale (n : InstNo) (amount : F32) (s : State) : Result :=
  withEnv n s fun e => .next (setEnv s n { e with outputScale := unitOperand amount })

/-- `ENV.SETCURVE en, exponent` (R117). -/
def execEnvSetCurve (n : InstNo) (exponent : F32) (s : State) : Result :=
  withEnv n s fun e => .next (setEnv s n { e with curveExponent := curveOperand exponent })

/-- `ENV.TRIGGER en` (R118). -/
def execEnvTrigger (n : InstNo) (s : State) : Result :=
  withEnv n s fun e => .next (setEnv s n (envTriggered e))

/-- `ENV.RELEASE en` (R119). -/
def execEnvRelease (n : InstNo) (s : State) : Result :=
  withEnv n s fun e => .next (setEnv s n (envReleased e))

/-- `ENV.PROCESS en` (R120). -/
def execEnvProcess (n : InstNo) (s : State) : Result :=
  withEnv n s fun e =>
    .next (respond0 (setEnv s n (envSample e)) (envOutput (envSample e)).bits)

/-- `ENV.GETLAST en` (R121). -/
def execEnvGetLast (n : InstNo) (s : State) : Result :=
  withEnv n s fun e => .next (respond0 s e.lastOutput.bits)

/-- `ENV.GETSTAGE en` (R122). -/
def execEnvGetStage (n : InstNo) (s : State) : Result :=
  withEnv n s fun e => .next (respond0 s (stageCode e.stage))

end Sys2Proof.Machine
end

