-- ==== Sys2Proof/Machine/Filter.lean ====
section
/-! DEFINITION. The meanings of the FLT commands (42_filter.md). `F` of the spec is the argument
`f`. -/

namespace Sys2Proof.Machine

/-! ### Lookup -/

/-- The effective cutoff position `p` (R194). -/
def effectiveCutoff (f : FltUnit) : F32 :=
  unitOperand (F32.add f.cutoffPosition f.cutoffAddition)

/-- What `index(x, steps)` returns: two neighbouring steps of the axis and the weight of the
second. -/
structure GridIndex (steps : Nat) where
  k0 : Fin steps
  k1 : Fin steps
  w : F32
  deriving DecidableEq, Repr

/-- `u = x · f32_of_int(steps - 1)`. -/
def gridPosition (x : F32) (steps : Nat) : F32 := F32.mul x (F32.ofInt (steps - 1 : Nat))

/-- `index(x, steps)` (R195). There is none where `floor_int` is undefined or the step is beyond
the axis, which takes an `x` that is no number in [0, 1]. -/
def gridIndex (x : F32) (steps : Nat) : Option (GridIndex steps) :=
  match (gridPosition x steps).floorInt with
  | none => none
  | some k =>
    if h : k < steps then
      some
        { k0 := ⟨k, h⟩
          k1 := ⟨min (k + 1) (steps - 1), by omega⟩
          w := F32.sub (gridPosition x steps) (F32.ofInt k) }
    else none

/-- `lerp(u, v, w) = u + w · (v - u)` (R196; assumption log 20). -/
def lerp (u v w : F32) : F32 := F32.add u (F32.mul w (F32.sub v u))

/-- Interpolation along frequency, then along resonance, of one field of the four cells. -/
def bilerp (c00 c01 c10 c11 a b : F32) : F32 := lerp (lerp c00 c01 a) (lerp c10 c11 a) b

/-- The coefficients at two grid indices under a lookup policy (R195). -/
def coefficientsAt (t : Table) (interp : Lookup) (gi : GridIndex Config.FS)
    (gj : GridIndex Config.RS) : Entry :=
  match interp with
  | .nearest => tabRead t gj.k0 gi.k0
  | .bilinear =>
    let c00 := tabRead t gj.k0 gi.k0
    let c01 := tabRead t gj.k0 gi.k1
    let c10 := tabRead t gj.k1 gi.k0
    let c11 := tabRead t gj.k1 gi.k1
    { g := bilerp c00.g c01.g c10.g c11.g gi.w gj.w
      R := bilerp c00.R c01.R c10.R c11.R gi.w gj.w
      comp := bilerp c00.comp c01.comp c10.comp c11.comp gi.w gj.w }

/-- `lookup(F)` (R195), with the positions of R194. -/
def lookup (t : Table) (f : FltUnit) : Option Entry :=
  match gridIndex (effectiveCutoff f) Config.FS, gridIndex f.resonancePosition Config.RS with
  | some gi, some gj => some (coefficientsAt t f.interp gi gj)
  | _, _ => none

/-! ### The filter step (R197) -/

/-- `h = 1.0 / ((1.0 + twoR · g) + g · g)`. -/
def svfGain (c : Entry) : F32 :=
  F32.div Config.ONE
    (F32.add (F32.add Config.ONE (F32.mul (F32.mul Config.TWO c.R) c.g)) (F32.mul c.g c.g))

/-- `hp = ((x - (twoR + g) · s1) - s2) · h`. -/
def svfHighPass (f : FltUnit) (x : F32) (c : Entry) : F32 :=
  F32.mul
    (F32.sub (F32.sub x (F32.mul (F32.add (F32.mul Config.TWO c.R) c.g) f.s1)) f.s2)
    (svfGain c)

/-- `v1 = g · hp`. -/
def svfV1 (f : FltUnit) (x : F32) (c : Entry) : F32 := F32.mul c.g (svfHighPass f x c)

/-- `bp = TANH(v1 + s1)`, the saturated band-pass value. -/
def svfBandPass (f : FltUnit) (x : F32) (c : Entry) : F32 := TANH (F32.add (svfV1 f x c) f.s1)

/-- `v2 = g · bp`. -/
def svfV2 (f : FltUnit) (x : F32) (c : Entry) : F32 := F32.mul c.g (svfBandPass f x c)

/-- `lp = v2 + s2`, the low-pass value. -/
def svfLowPass (f : FltUnit) (x : F32) (c : Entry) : F32 := F32.add (svfV2 f x c) f.s2

/-- The instance after `svf_step`: `s1 <- v1 + bp`, `s2 <- v2 + lp`. DEDUCED: R290 says that the states
decay to a zero after the input stops, but these operations, rounded by R8, can leave a small
subnormal state where it is; the model follows them (assumption log 21). -/
def svfStep (f : FltUnit) (x : F32) (c : Entry) : FltUnit :=
  { f with
    s1 := F32.add (svfV1 f x c) (svfBandPass f x c)
    s2 := F32.add (svfV2 f x c) (svfLowPass f x c) }

/-- What `svf_step` returns: `lp · comp`. -/
def svfOutput (f : FltUnit) (x : F32) (c : Entry) : F32 := F32.mul (svfLowPass f x c) c.comp

/-! ### The meanings -/

/-- `FLT.INIT fn, sampleRate` (R201): the table is rebuilt for every instance, and instance `n`
alone is reset. -/
def execFltInit (n : InstNo) (sampleRate : F32) (s : State) : Result :=
  withFlt n s fun _ => .next (setFlt (rebuildTable s (rateOperand sampleRate)) n fltInitBody)

/-- `FLT.SETFREQ fn, position` (R202). -/
def execFltSetFreq (n : InstNo) (position : F32) (s : State) : Result :=
  withFlt n s fun f => .next (setFlt s n { f with cutoffPosition := unitOperand position })

/-- `FLT.ADDFREQ fn, position` (R203): any pattern is stored unchanged. -/
def execFltAddFreq (n : InstNo) (position : F32) (s : State) : Result :=
  withFlt n s fun f => .next (setFlt s n { f with cutoffAddition := position })

/-- `FLT.SETQ fn, position` (R204). -/
def execFltSetQ (n : InstNo) (position : F32) (s : State) : Result :=
  withFlt n s fun f => .next (setFlt s n { f with resonancePosition := unitOperand position })

/-- `FLT.GETFREQ fn` (R205): `cutoffAddition` is ignored. -/
def execFltGetFreq (n : InstNo) (s : State) : Result :=
  withFlt n s fun f => .next (respond0 s (cutoffHz s.tab.sr f.cutoffPosition).bits)

/-- `FLT.GETQ fn` (R206). -/
def execFltGetQ (n : InstNo) (s : State) : Result :=
  withFlt n s fun f => .next (respond0 s (resonanceQ f.resonancePosition).bits)

/-- `FLT.PROCESS fn, sample` (R207). -/
def execFltProcess (n : InstNo) (sample : F32) (s : State) : Result :=
  withFlt n s fun f =>
    match lookup s.tab f with
    | some c => .next (respond0 (setFlt s n (svfStep f sample c)) (svfOutput f sample c).bits)
    | none => .fault .tableIndex

/-- `FLT.SETLOOKUP fn, mode` (R208). -/
def execFltSetLookup (n : InstNo) (mode : Lookup) (s : State) : Result :=
  withFlt n s fun f => .next (setFlt s n { f with interp := mode })

end Sys2Proof.Machine
end

