-- ==== Sys2Proof/Machine/Oscillator.lean ====
section
/-! DEFINITION. The meanings of the OSC commands (41_oscillator.md). `O` of the spec is the
argument `o`. -/

namespace Sys2Proof.Machine

/-! ### What the commands compute on one instance -/

/-- The naive saw `2.0 · ph - 1.0`. -/
def naiveSaw (ph : F32) : F32 := F32.sub (F32.mul Config.TWO ph) Config.ONE

/-- The correction just after the wrap: `((tau + tau) - tau · tau) - 1.0`, `tau = ph / dt`. -/
def blepAfterWrap (tau : F32) : F32 :=
  F32.sub (F32.sub (F32.add tau tau) (F32.mul tau tau)) Config.ONE

/-- The correction just before the wrap: `(tau · tau + 2.0 · tau) + 1.0`,
`tau = (ph - 1.0) / dt`. -/
def blepBeforeWrap (tau : F32) : F32 :=
  F32.add (F32.add (F32.mul tau tau) (F32.mul Config.TWO tau)) Config.ONE

/-- The saw with the PolyBLEP correction; the test just after the wrap comes first (R157). -/
def blepSaw (ph dt : F32) : F32 :=
  if ph.lt dt then F32.sub (naiveSaw ph) (blepAfterWrap (F32.div ph dt))
  else if ph.gt (F32.sub Config.ONE dt) then
    F32.sub (naiveSaw ph) (blepBeforeWrap (F32.div (F32.sub ph Config.ONE) dt))
  else naiveSaw ph

/-- `wave(O, i)` (R157). -/
def wave (o : OscUnit) (i : Fin Config.N_VOICES) : F32 :=
  match o.mode with
  | .sine => SIN (F32.mul Config.TWO_PI32 o.phase[i])
  | .unison => blepSaw o.phase[i] o.phaseIncrement[i]
  | .saw1 => blepSaw o.phase[i] o.phaseIncrement[i]

/-- The phase one sample on: advance, then wrap (R159). -/
def advancedPhase (phase increment : F32) : F32 :=
  if (F32.add phase increment).ge Config.ONE then F32.sub (F32.add phase increment) Config.ONE
  else F32.add phase increment

/-- `advance(O, i)` for every voice. -/
def advanceAll (o : OscUnit) : OscUnit :=
  { o with phase := Vector.ofFn fun i => advancedPhase o.phase[i] o.phaseIncrement[i] }

/-- A stereo sum. -/
structure Stereo where
  l : F32
  r : F32
  deriving DecidableEq, Repr

/-- The voices a mode sounds, in order (R158). -/
def soundingVoices : OscMode → List (Fin Config.N_VOICES)
  | .unison => [0, 1, 2, 3, 4, 5, 6]
  | .saw1 => [0]
  | .sine => [0]

/-- The normalization of a mode (R158). -/
def modeNorm : OscMode → F32
  | .unison => Config.NORM7
  | .saw1 => Config.ONE
  | .sine => Config.ONE

/-- A voice's share of a channel: `((s · weight) · 0.5) · norm`. -/
def channelShare (s weight norm : F32) : F32 :=
  F32.mul (F32.mul (F32.mul s weight) Config.HALF) norm

/-- Add voice `i` to the sum, panned (R158). -/
def addVoice (o : OscUnit) (acc : Stereo) (i : Fin Config.N_VOICES) : Stereo where
  l := F32.add acc.l
    (channelShare (wave o i) (F32.sub Config.ONE Config.PAN[i]) (modeNorm o.mode))
  r := F32.add acc.r
    (channelShare (wave o i) (F32.add Config.ONE Config.PAN[i]) (modeNorm o.mode))

/-- The stereo sum of the sounding voices, from the phases before the advance. -/
def stereoSum (o : OscUnit) : Stereo :=
  (soundingVoices o.mode).foldl (addVoice o) ⟨F32.zero, F32.zero⟩

/-- `OSC.SETNOTE`'s instance (R152). -/
def oscWithNote (o : OscUnit) (note : BitVec 7) : OscUnit :=
  recompute { o with baseFrequency := frequencyOperand (noteHz note) o.sampleRate }

/-- `OSC.SETFREQ`'s instance (R153). -/
def oscWithFrequency (o : OscUnit) (hz : F32) : OscUnit :=
  recompute { o with baseFrequency := frequencyOperand hz o.sampleRate }

/-- `OSC.SETDETUNE`'s instance (R155). -/
def oscWithDetune (o : OscUnit) (amount : F32) : OscUnit :=
  recompute { o with detuneAmount := unitOperand amount }

/-! ### The meanings -/

/-- `OSC.INIT on, sampleRate` (R151). -/
def execOscInit (n : InstNo) (sampleRate : F32) (s : State) : Result :=
  withOsc n s fun _ => .next (setOsc s n (oscInitBody sampleRate))

/-- `OSC.SETNOTE on, note` (R152). -/
def execOscSetNote (n : InstNo) (note : BitVec 7) (s : State) : Result :=
  withOsc n s fun o => .next (setOsc s n (oscWithNote o note))

/-- `OSC.SETFREQ on, hz` (R153). -/
def execOscSetFreq (n : InstNo) (hz : F32) (s : State) : Result :=
  withOsc n s fun o => .next (setOsc s n (oscWithFrequency o hz))

/-- `OSC.SETAMP on, amount` (R154). -/
def execOscSetAmp (n : InstNo) (amount : F32) (s : State) : Result :=
  withOsc n s fun o => .next (setOsc s n { o with amplitude := unitOperand amount })

/-- `OSC.SETDETUNE on, amount` (R155). -/
def execOscSetDetune (n : InstNo) (amount : F32) (s : State) : Result :=
  withOsc n s fun o => .next (setOsc s n (oscWithDetune o amount))

/-- `OSC.PROCESS on` (R158). -/
def execOscProcess (n : InstNo) (s : State) : Result :=
  withOsc n s fun o =>
    .next (respondBoth (setOsc s n (advanceAll o))
      (F32.mul (stereoSum o).l o.amplitude).bits (F32.mul (stereoSum o).r o.amplitude).bits)

/-- `OSC.SETMODE on, mode` (R156). -/
def execOscSetMode (n : InstNo) (mode : OscMode) (s : State) : Result :=
  withOsc n s fun o => .next (setOsc s n { o with mode := mode })

end Sys2Proof.Machine
end

