-- ==== Sys2Proof/Machine/System.lean ====
section
/-! DEFINITION. The meanings of the SYS commands (43_system.md). -/

namespace Sys2Proof.Machine

/-- `SYS.NOP` (R240): no state changes. -/
def execSysNop (s : State) : Result := .next s

/-- `SYS.RDSTATUS` (R241): RESP0 <- STATUS. -/
def execSysRdStatus (s : State) : Result := .next (respond0 s s.status)

/-- `SYS.CLRSTATUS` (R242): STATUS <- 0x00000000. -/
def execSysClrStatus (s : State) : Result := .next { s with status := statusCleared }

/-- `SYS.RESET` (R243): the reset sequence. -/
def execSysReset (s : State) : Result := .next (resetBlock s)

end Sys2Proof.Machine
end

