-- ==== Sys2Proof/Machine/Dispatch.lean ====
section
/-! DEFINITION. One arm per command of the opcode table (30_encoding.md R86). -/

namespace Sys2Proof.Machine

/-- What a command does. -/
def exec (i : Instr) (s : State) : Host.Outcome State Fault Refusal :=
  match i with
  -- SYS (43_system.md)
  | .sysNop => Sys2Proof.Machine.execSysNop s
  | .sysRdStatus => Sys2Proof.Machine.execSysRdStatus s
  | .sysClrStatus => Sys2Proof.Machine.execSysClrStatus s
  | .sysReset => Sys2Proof.Machine.execSysReset s
  -- ENV (40_envelope.md)
  | .envInit n d => Sys2Proof.Machine.execEnvInit n d s
  | .envSetAttack n d => Sys2Proof.Machine.execEnvSetAttack n d s
  | .envAddAttack n d => Sys2Proof.Machine.execEnvAddAttack n d s
  | .envSetDecay n d => Sys2Proof.Machine.execEnvSetDecay n d s
  | .envAddDecay n d => Sys2Proof.Machine.execEnvAddDecay n d s
  | .envSetScale n d => Sys2Proof.Machine.execEnvSetScale n d s
  | .envSetCurve n d => Sys2Proof.Machine.execEnvSetCurve n d s
  | .envTrigger n => Sys2Proof.Machine.execEnvTrigger n s
  | .envRelease n => Sys2Proof.Machine.execEnvRelease n s
  | .envProcess n => Sys2Proof.Machine.execEnvProcess n s
  | .envGetLast n => Sys2Proof.Machine.execEnvGetLast n s
  | .envGetStage n => Sys2Proof.Machine.execEnvGetStage n s
  -- OSC (41_oscillator.md)
  | .oscInit n d => Sys2Proof.Machine.execOscInit n d s
  | .oscSetNote n note => Sys2Proof.Machine.execOscSetNote n note s
  | .oscSetFreq n d => Sys2Proof.Machine.execOscSetFreq n d s
  | .oscSetAmp n d => Sys2Proof.Machine.execOscSetAmp n d s
  | .oscSetDetune n d => Sys2Proof.Machine.execOscSetDetune n d s
  | .oscProcess n => Sys2Proof.Machine.execOscProcess n s
  | .oscSetMode n mode => Sys2Proof.Machine.execOscSetMode n mode s
  -- FLT (42_filter.md)
  | .fltInit n d => Sys2Proof.Machine.execFltInit n d s
  | .fltSetFreq n d => Sys2Proof.Machine.execFltSetFreq n d s
  | .fltAddFreq n d => Sys2Proof.Machine.execFltAddFreq n d s
  | .fltSetQ n d => Sys2Proof.Machine.execFltSetQ n d s
  | .fltGetFreq n => Sys2Proof.Machine.execFltGetFreq n s
  | .fltGetQ n => Sys2Proof.Machine.execFltGetQ n s
  | .fltProcess n d => Sys2Proof.Machine.execFltProcess n d s
  | .fltSetLookup n mode => Sys2Proof.Machine.execFltSetLookup n mode s

end Sys2Proof.Machine
end

