-- ==== Sys2Proof/Machine/Step.lean ====
section
/-! DEFINITION. One step of the block: execute the next command record (20_memory.md R62, R67). The
block has no program counter and fetches from no memory (10_state.md R21, 20_memory.md R70). -/

namespace Sys2Proof.Machine

/-- Execute a record: a legal one is the meaning of its instruction, an illegal one is
`set_illegal()` (30_encoding.md R84, R85, R89). -/
def runCommand (c : Command) (s : State) : Host.Outcome State Fault Refusal :=
  match decode c with
  | .ok i => exec i s
  | .error _ => .next (setIllegal s)

/-- One step. With no record on the port the block is idle and keeps all its state
(60_exceptions.md R272, 70_reset_and_hazards.md R281; assumption log 12). -/
def step (s : State) : Host.Outcome State Fault Refusal :=
  match takeCommand s with
  | none => .next s
  | some (c, t) => runCommand c t

/-- `s` with the record whose bits are `w` delivered as its next command. -/
def State.withFetchWord (s : State) (nbits w : Nat) : State := deliver s (commandOfBits nbits w)

end Sys2Proof.Machine
end

