-- ==== Sys2Proof/Machine/Pseudo.lean ====
section
/-! DEFINITION. The pseudo-instructions of 30_encoding.md R91 and R92: what the host sends in place
of each. They are no commands of the block and no arm of `exec`. -/

namespace Sys2Proof.Machine

/-- `NOTEON n, v` (R92): nothing for velocity 0, else the note and both triggers; the velocity has
no other effect. -/
def noteOn (note velocity : BitVec 7) : List Instr :=
  if velocity = 0#7 then []
  else [.oscSetNote 0#8 note, .envTrigger 0#8, .envTrigger 1#8]

/-- Continue from the next state of a command; a stop stays a stop. -/
def andThen {α : Type} (r : Result) (k : State → Host.Outcome α Fault Refusal) :
    Host.Outcome α Fault Refusal :=
  match r with
  | .next s => k s
  | .fault f => .fault f
  | .refused f => .refused f

/-- Run a list of commands in order (20_memory.md R67). -/
def execAll : List Instr → State → Result
  | [], s => .next s
  | i :: rest, s => andThen (exec i s) (execAll rest)

/-- What `FRAME` gives the host: the state after it and the two output samples. -/
structure FrameOutput where
  state : State
  outL : F32
  outR : F32
  deriving DecidableEq, Repr

/-- `FRAME` (R91): one audio frame of the voice pipeline, in which the host copies each response
into the DATA of a later command. -/
def frame (s : State) : Host.Outcome FrameOutput Fault Refusal :=
  andThen (exec (.envProcess 0#8) s) fun s1 =>
  andThen (exec (.oscSetAmp 0#8 ⟨s1.resp0⟩) s1) fun s2 =>
  andThen (exec (.envProcess 1#8) s2) fun s3 =>
  andThen (exec (.fltAddFreq 0#8 ⟨s3.resp0⟩) s3) fun s4 =>
  andThen (exec (.fltAddFreq 1#8 ⟨s3.resp0⟩) s4) fun s5 =>
  andThen (exec (.oscProcess 0#8) s5) fun s6 =>
  andThen (exec (.fltProcess 0#8 ⟨s6.resp0⟩) s6) fun s7 =>
  andThen (exec (.fltProcess 1#8 ⟨s6.resp1⟩) s7) fun s8 =>
  .next ⟨s8, ⟨s7.resp0⟩, ⟨s8.resp0⟩⟩

end Sys2Proof.Machine
end

