-- ==== Sys2Proof/Safety.lean ====
section
/-! DEFINITION. What the claims are stated in: the legal values of every field (10_state.md R22 to
R29), the invariant of R33, the legality of a CMD word (30_encoding.md R84), the unit instance a
command names, and the conditions on a run that the host's duties give (60_exceptions.md R273,
R274). -/

namespace Sys2Proof.Machine

/-! ### Legal values -/

/-- A value from `lo` to `hi`, two nonnegative values, with the sign of +0.0. -/
def F32Within (lo hi x : F32) : Prop := x.sign = false ∧ lo.low ≤ x.low ∧ x.low ≤ hi.low

/-- A value in [+0.0, 1.0). -/
def F32BelowOne (x : F32) : Prop := x.sign = false ∧ x.low < Config.ONE.low

/-- 10.0, the greatest sum of a time and its modulation. -/
def maxStageLength : F32 := ⟨0x41200000#32⟩

/-- The legal values of an envelope (R22), invariants 1 and 2 of R33, and, more than R22 asks of
`stageTime`, that it stays within the longest stage (40_envelope.md R126; assumption log 6). -/
structure EnvUnit.Legal (e : EnvUnit) : Prop where
  stageTime : F32Within F32.zero maxStageLength e.stageTime
  sampleIncrement : ∃ sr, F32Within Config.SR_MIN Config.SR_MAX sr ∧
    e.sampleIncrement = F32.div Config.ONE sr
  attackTime : F32Within Config.ENV_TIME_MIN Config.ENV_TIME_MAX e.attackTime
  attackAdd : F32Within Config.ENV_ADD_MIN Config.ENV_ADD_MAX e.attackAdd
  decayTime : F32Within Config.ENV_TIME_MIN Config.ENV_TIME_MAX e.decayTime
  decayAdd : F32Within Config.ENV_ADD_MIN Config.ENV_ADD_MAX e.decayAdd
  curveExponent : F32Within Config.ENV_CURVE_MIN Config.ENV_CURVE_MAX e.curveExponent
  outputScale : F32Within F32.zero Config.ONE e.outputScale
  lastOutput : F32Within F32.zero Config.ONE e.lastOutput
  offIsSilent : e.stage = .off → e.lastOutput = F32.zero

/-- The legal values of an oscillator (R24) and invariants 3 and 5 of R33. -/
structure OscUnit.Legal (o : OscUnit) : Prop where
  sampleRate : F32Within Config.SR_MIN Config.SR_MAX o.sampleRate
  baseFrequency : F32Within F32.zero (halfRate o.sampleRate) o.baseFrequency
  detuneAmount : F32Within F32.zero Config.ONE o.detuneAmount
  amplitude : F32Within F32.zero Config.ONE o.amplitude
  frequency : ∀ i : Fin Config.N_VOICES, F32Within F32.zero Config.SR_MAX o.frequency[i]
  phaseIncrement : ∀ i : Fin Config.N_VOICES, F32BelowOne o.phaseIncrement[i]
  phase : ∀ i : Fin Config.N_VOICES, F32BelowOne o.phase[i]

/-- The legal values of a filter (R26); `cutoffAddition`, `s1` and `s2` may hold any pattern. -/
structure FltUnit.Legal (f : FltUnit) : Prop where
  cutoffPosition : F32Within F32.zero Config.ONE f.cutoffPosition
  resonancePosition : F32Within F32.zero Config.ONE f.resonancePosition

/-- The table's sample rate is legal and every entry is the one `BuildTable` computes for it
(R27, R33 invariant 6, 20_memory.md R71). -/
structure Table.Legal (t : Table) : Prop where
  sr : F32Within Config.SR_MIN Config.SR_MAX t.sr
  built : t = buildTable t.sr

/-- The invariant of the block: every field legal, and the reserved bits of `STATUS` zero (R28). -/
structure State.Inv (s : State) : Prop where
  env : ∀ n : Fin Config.NUM_ENV, s.env[n].Legal
  osc : ∀ n : Fin Config.NUM_OSC, s.osc[n].Legal
  flt : ∀ n : Fin Config.NUM_FLT, s.flt[n].Legal
  tab : s.tab.Legal
  status : s.status = 0x00000000#32 ∨ s.status = 0x00000001#32

/-! ### Legality of a CMD word -/

/-- The immediate forms (30_encoding.md R83). -/
inductive ImmForm where
  | z
  | note7
  | mode2
  | bit1
  deriving DecidableEq, Repr

/-- The condition of a form for a legal command. -/
def ImmForm.holds : ImmForm → Nat → Prop
  | .z, imm => imm = 0
  | .note7, imm => imm < 128
  | .mode2, imm => imm < 3
  | .bit1, imm => imm < 2

/-- The assigned operations (R86): UNIT, OP, IMM form. -/
def assignedOps : List (Nat × Nat × ImmForm) :=
  [(0, 0, .z), (0, 1, .z), (0, 2, .z), (0, 3, .z)] ++
  [(1, 0, .z), (1, 1, .z), (1, 2, .z), (1, 3, .z), (1, 4, .z), (1, 5, .z), (1, 6, .z), (1, 7, .z),
   (1, 8, .z), (1, 9, .z), (1, 10, .z), (1, 11, .z)] ++
  [(2, 0, .z), (2, 1, .note7), (2, 2, .z), (2, 3, .z), (2, 4, .z), (2, 5, .z), (2, 6, .mode2)] ++
  [(3, 0, .z), (3, 1, .z), (3, 2, .z), (3, 3, .z), (3, 4, .z), (3, 5, .z), (3, 6, .z), (3, 7, .bit1)]

/-- How many instances a unit has: condition 3 of R84 asks INST to be below it. -/
def unitCount : Nat → Nat
  | 0 => 1
  | 1 => Config.NUM_ENV
  | 2 => Config.NUM_OSC
  | 3 => Config.NUM_FLT
  | _ => 0

/-- A CMD word is legal (R84): UNIT and OP are assigned, INST is in range, IMM meets its form. -/
def LegalWord (w : Word) : Prop :=
  ∃ row ∈ assignedOps,
    row.1 = w.toNat / 2 ^ 28 ∧ row.2.1 = w.toNat / 2 ^ 24 % 16 ∧
    w.toNat / 2 ^ 16 % 256 < unitCount row.1 ∧ row.2.2.holds (w.toNat % 2 ^ 16)

/-! ### Which state a command names -/

/-- The unit instance a command acts on. -/
inductive Target where
  | system
  | env (n : InstNo)
  | osc (n : InstNo)
  | flt (n : InstNo)
  deriving DecidableEq, Repr

/-- The target of each command, from its mnemonic and INST (R86). -/
def target : Instr → Target
  | .sysNop => .system
  | .sysRdStatus => .system
  | .sysClrStatus => .system
  | .sysReset => .system
  | .envInit n _ => .env n
  | .envSetAttack n _ => .env n
  | .envAddAttack n _ => .env n
  | .envSetDecay n _ => .env n
  | .envAddDecay n _ => .env n
  | .envSetScale n _ => .env n
  | .envSetCurve n _ => .env n
  | .envTrigger n => .env n
  | .envRelease n => .env n
  | .envProcess n => .env n
  | .envGetLast n => .env n
  | .envGetStage n => .env n
  | .oscInit n _ => .osc n
  | .oscSetNote n _ => .osc n
  | .oscSetFreq n _ => .osc n
  | .oscSetAmp n _ => .osc n
  | .oscSetDetune n _ => .osc n
  | .oscProcess n => .osc n
  | .oscSetMode n _ => .osc n
  | .fltInit n _ => .flt n
  | .fltSetFreq n _ => .flt n
  | .fltAddFreq n _ => .flt n
  | .fltSetQ n _ => .flt n
  | .fltGetFreq n => .flt n
  | .fltGetQ n => .flt n
  | .fltProcess n _ => .flt n
  | .fltSetLookup n _ => .flt n

/-- The commands that write RESP0 (10_state.md R29, 70_reset_and_hazards.md R286). -/
def writesResp0 : Instr → Bool
  | .sysRdStatus => true
  | .sysReset => true
  | .envProcess _ => true
  | .envGetLast _ => true
  | .envGetStage _ => true
  | .oscProcess _ => true
  | .fltGetFreq _ => true
  | .fltGetQ _ => true
  | .fltProcess _ _ => true
  | .sysNop => false
  | .sysClrStatus => false
  | .envInit _ _ => false
  | .envSetAttack _ _ => false
  | .envAddAttack _ _ => false
  | .envSetDecay _ _ => false
  | .envAddDecay _ _ => false
  | .envSetScale _ _ => false
  | .envSetCurve _ _ => false
  | .envTrigger _ => false
  | .envRelease _ => false
  | .oscInit _ _ => false
  | .oscSetNote _ _ => false
  | .oscSetFreq _ _ => false
  | .oscSetAmp _ _ => false
  | .oscSetDetune _ _ => false
  | .oscSetMode _ _ => false
  | .fltInit _ _ => false
  | .fltSetFreq _ _ => false
  | .fltAddFreq _ _ => false
  | .fltSetQ _ _ => false
  | .fltSetLookup _ _ => false

/-! ### Runs -/

/-- A run ends well when no illegal command was executed since the last clear (R274). -/
def EndsWell (s : State) : Prop := s.status = 0x00000000#32

/-- Duty H-2 (R273): every instance and the table were given the same sample rate. -/
def SameSampleRate (sr : F32) (s : State) : Prop :=
  (∀ n : Fin Config.NUM_ENV, s.env[n].sampleIncrement = F32.div Config.ONE sr) ∧
  (∀ n : Fin Config.NUM_OSC, s.osc[n].sampleRate = sr) ∧ s.tab.sr = sr

/-- An output within the ceiling of 42_filter.md R210. -/
def WithinCeiling (y : F32) : Prop := y.low ≤ Config.FLT_CEIL.low

end Sys2Proof.Machine
end

