-- ==== Sys2Proof/Certificates/Slice0/Obligations.lean ====
section
/-! DEFINITION. The statements about the model, one per claim of OBLIGATIONS.json. Each docstring
names the rule of spec/ it formalises. -/

open Sys2Proof Sys2Proof.Machine

/-! ### What is written where: a state that differs from `s` in one instance alone -/

/-- `s` with `ENV[n]` written and nothing else changed. -/
def putEnv (s : State) (n : InstNo) (h : n.toNat < Config.NUM_ENV) (e : EnvUnit) : State :=
  { s with env := s.env.set n.toNat e h }

/-- `s` with `OSC[n]` written and nothing else changed. -/
def putOsc (s : State) (n : InstNo) (h : n.toNat < Config.NUM_OSC) (o : OscUnit) : State :=
  { s with osc := s.osc.set n.toNat o h }

/-- `s` with `FLT[n]` written and nothing else changed. -/
def putFlt (s : State) (n : InstNo) (h : n.toNat < Config.NUM_FLT) (f : FltUnit) : State :=
  { s with flt := s.flt.set n.toNat f h }

/-- A CMD pattern of R86 with an instance number in place of its `nn` and an immediate added. -/
def cmdAt (pattern : Nat) (n : InstNo) (imm : Nat) : Word :=
  BitVec.ofNat 32 (pattern + n.toNat * 2 ^ 16 + imm)

/-! ### Decoding, encoding and the step -/

/-- R62, R67, R80 and R89: a step takes the record at the front of the port and is `exec` of the
instruction it decodes to, in the state without that record. The port is the model's own field
(assumption log 1). -/
def Obligations.StepRunsTheDecodedCommand : Prop :=
  ∀ (s : State) (c : Command) (rest : List Command) (i : Instr),
    s.port = c :: rest → decode c = .ok i → step s = exec i { s with port := rest }

/-- R85, R87 and R260: a record whose CMD is not legal sets `STATUS[0]` and changes nothing else,
and a step with such a record at the front of the port does just that and takes it off. The port is
the model's own field (assumption log 1). -/
def Obligations.IllegalWordSetsOnlyTheIllegalBit : Prop :=
  ∀ (c : Command) (s : State), ¬ LegalWord c.cmd →
    runCommand c s = .next { s with status := s.status ||| 0x00000001#32 } ∧
    ∀ rest, s.port = c :: rest →
      step s = .next { s with port := rest, status := s.status ||| 0x00000001#32 }

/-- R272 and R281: with no record on the port a step changes nothing. The port is the model's own
field (assumption log 1). -/
def Obligations.IdleBlockKeepsAllState : Prop :=
  ∀ s : State, s.port = [] → step s = .next s

/-- R84: the decoder accepts exactly the legal CMD words, whatever DATA and the state are. -/
def Obligations.DecoderAcceptsExactlyTheLegalWords : Prop :=
  ∀ c : Command, (∃ i, decode c = .ok i) ↔ LegalWord c.cmd

/-- R81 to R83 and R86: decoding the record of a well-formed instruction gives the instruction, for
every operand the encoding admits. -/
def Obligations.DecodeOfEncodeIsTheInstruction : Prop :=
  ∀ i : Instr, i.wellFormed = true → decode (encode i) = .ok i

/-- R86 and R89: what a record decodes to is well-formed and encodes to the record's CMD word, so
no two CMD words decode to one instruction. -/
def Obligations.EncodeOfDecodeIsTheWord : Prop :=
  ∀ (c : Command) (i : Instr), decode c = .ok i →
    (encode i).cmd = c.cmd ∧ i.wellFormed = true

/-- R64 and R65: a record is eight bytes, CMD little-endian at offset 0 and DATA little-endian at
offset 4, and the front of a byte stream decodes as its record does, be it legal or not; fewer bytes are no
record. The names of the rejections are the model's (assumption log 7). -/
def Obligations.RecordsReadBackFromTheirBytes : Prop :=
  (∀ c : Command, ∀ k < 4,
    c.toBytes[k]? = some (BitVec.ofNat 8 (c.cmd.toNat / 256 ^ k)) ∧
    c.toBytes[4 + k]? = some (BitVec.ofNat 8 (c.data.toNat / 256 ^ k))) ∧
  (∀ (c : Command) (rest : List Byte), decodeBytes (c.toBytes ++ rest) =
    match decode c with
    | .ok i => .ok (i, rest)
    | .error e => .error e) ∧
  (∀ bs : List Byte, bs.length < 8 → decodeBytes bs = .error .truncated)

/-- 95_test_vectors.md section 2.4: words of every family, legal and illegal, decode as listed. -/
def Obligations.ListedWordsDecode : Prop :=
  decode ⟨0x00000000#32, 0#32⟩ = .ok .sysNop ∧
  decode ⟨0x03000000#32, 0#32⟩ = .ok .sysReset ∧
  decode ⟨0x10000000#32, 0x46000000#32⟩ = .ok (.envInit 0 ⟨0x46000000#32⟩) ∧
  decode ⟨0x1B010000#32, 0#32⟩ = .ok (.envGetStage 1) ∧
  decode ⟨0x2100007F#32, 0#32⟩ = .ok (.oscSetNote 0 127) ∧
  decode ⟨0x26000002#32, 0#32⟩ = .ok (.oscSetMode 0 .sine) ∧
  decode ⟨0x36010000#32, 0x3F800000#32⟩ = .ok (.fltProcess 1 ⟨0x3F800000#32⟩) ∧
  decode ⟨0x37000001#32, 0#32⟩ = .ok (.fltSetLookup 0 .bilinear) ∧
  decode ⟨0x00010000#32, 0#32⟩ = .error .instOutOfRange ∧
  decode ⟨0x1C000000#32, 0#32⟩ = .error .reservedOp ∧
  decode ⟨0x10020000#32, 0#32⟩ = .error .instOutOfRange ∧
  decode ⟨0x21000080#32, 0#32⟩ = .error .badImmediate ∧
  decode ⟨0x26000003#32, 0#32⟩ = .error .badImmediate ∧
  decode ⟨0x40000000#32, 0#32⟩ = .error .reservedUnit

/-! ### Reset -/

/-- R280: the value of every piece of state after power-up, and `SYS.RESET` gives the same in one
step from every state. -/
def Obligations.ResetHoldsTheStatedValues : Prop :=
  (∀ n : Fin Config.NUM_ENV, State.reset.env[n] =
    { stage := .off, stageTime := ⟨0x00000000#32⟩, sampleIncrement := ⟨0x37AEC33E#32⟩,
      attackTime := ⟨0x3C23D70A#32⟩, attackAdd := ⟨0x00000000#32⟩,
      decayTime := ⟨0x3DCCCCCD#32⟩, decayAdd := ⟨0x00000000#32⟩,
      curveExponent := ⟨0x3F800000#32⟩, outputScale := ⟨0x3F800000#32⟩,
      lastOutput := ⟨0x00000000#32⟩ }) ∧
  (∀ n : Fin Config.NUM_OSC, State.reset.osc[n] =
    { sampleRate := ⟨0x473B8000#32⟩, baseFrequency := ⟨0x43DC0000#32⟩,
      detuneAmount := ⟨0x00000000#32⟩, amplitude := ⟨0x00000000#32⟩, mode := .unison,
      frequency := Vector.replicate 7 ⟨0x43DC0000#32⟩,
      phaseIncrement := Vector.replicate 7 ⟨0x3C162FC9#32⟩,
      phase := Vector.replicate 7 ⟨0x00000000#32⟩ }) ∧
  (∀ n : Fin Config.NUM_FLT, State.reset.flt[n] =
    { cutoffPosition := ⟨0x3F800000#32⟩, cutoffAddition := ⟨0x00000000#32⟩,
      resonancePosition := ⟨0x00000000#32⟩, interp := .bilinear, s1 := ⟨0x00000000#32⟩,
      s2 := ⟨0x00000000#32⟩ }) ∧
  State.reset.tab = buildTable ⟨0x473B8000#32⟩ ∧ State.reset.tab.sr = ⟨0x473B8000#32⟩ ∧
  State.reset.status = 0x00000000#32 ∧ State.reset.resp0 = 0x00000000#32 ∧
  State.reset.resp1 = 0x00000000#32 ∧
  (∀ s : State, ∃ p, exec .sysReset s = .next { State.reset with port := p })

/-- R280 and R282: every field is legal after reset and the invariants hold. -/
def Obligations.ResetMeetsTheInvariant : Prop := State.reset.Inv

/-! ### SYS commands -/

/-- R240 to R242: `SYS.NOP` changes nothing, `SYS.RDSTATUS` copies `STATUS` to RESP0 and
`SYS.CLRSTATUS` clears `STATUS`; nothing else changes. Each is its one CMD word, with any DATA. -/
def Obligations.SystemCommandsComplete : Prop :=
  ∀ (s : State) (x : Word),
    decode ⟨0x00000000#32, x⟩ = .ok .sysNop ∧ exec .sysNop s = .next s ∧
    decode ⟨0x01000000#32, x⟩ = .ok .sysRdStatus ∧
    exec .sysRdStatus s = .next { s with resp0 := s.status } ∧
    decode ⟨0x02000000#32, x⟩ = .ok .sysClrStatus ∧
    exec .sysClrStatus s = .next { s with status := 0x00000000#32 }

/-- R243: from every state `SYS.RESET` gives every piece of the block's state its reset value. -/
def Obligations.SystemResetRestoresTheResetState : Prop :=
  ∀ (s : State) (x : Word), decode ⟨0x03000000#32, x⟩ = .ok .sysReset ∧
    ∃ t, exec .sysReset s = .next t ∧
    t.env = State.reset.env ∧ t.osc = State.reset.osc ∧ t.flt = State.reset.flt ∧
    t.tab = State.reset.tab ∧ t.status = 0x00000000#32 ∧ t.resp0 = 0x00000000#32 ∧
    t.resp1 = 0x00000000#32

/-- R28: no command but `SYS.CLRSTATUS` and `SYS.RESET` clears `ILLEGAL`, and no command sets a
reserved bit of `STATUS`. -/
def Obligations.IllegalBitIsSticky : Prop :=
  ∀ (i : Instr) (s t : State), exec i s = .next t →
    (s.status.getLsbD 0 = true → t.status.getLsbD 0 = false →
      i = .sysClrStatus ∨ i = .sysReset) ∧
    (∀ k, k ≠ 0 → t.status.getLsbD k = true → s.status.getLsbD k = true)

/-! ### ENV commands -/

/-- R111: `ENV.INIT` writes every field of its instance and nothing else. -/
def Obligations.EnvInitWritesEveryField : Prop :=
  ∀ (n : InstNo) (d : F32) (s : State) (h : n.toNat < Config.NUM_ENV),
    decode ⟨cmdAt 0x10000000 n 0, d.bits⟩ = .ok (.envInit n d) ∧
    exec (.envInit n d) s = .next (putEnv s n h
      { stage := .off, stageTime := F32.zero
        sampleIncrement := F32.div Config.ONE (F32.clamp d Config.SR_MIN Config.SR_MAX)
        attackTime := ⟨0x3C23D70A#32⟩, attackAdd := F32.zero
        decayTime := ⟨0x3DCCCCCD#32⟩, decayAdd := F32.zero
        curveExponent := Config.ONE, outputScale := Config.ONE, lastOutput := F32.zero })

/-- R112 to R115: `ENV.SETATTACK` and `ENV.SETDECAY` clamp to [RN(0.001), 5.0], `ENV.ADDATTACK` and
`ENV.ADDDECAY` to [+0.0, 5.0]; each replaces its one field. -/
def Obligations.EnvTimesAreClampedAndStored : Prop :=
  ∀ (n : InstNo) (d : F32) (s : State) (h : n.toNat < Config.NUM_ENV),
    decode ⟨cmdAt 0x11000000 n 0, d.bits⟩ = .ok (.envSetAttack n d) ∧
    exec (.envSetAttack n d) s = .next (putEnv s n h
      { s.env[n.toNat] with attackTime := F32.clamp d ⟨0x3A83126F#32⟩ ⟨0x40A00000#32⟩ }) ∧
    decode ⟨cmdAt 0x13000000 n 0, d.bits⟩ = .ok (.envSetDecay n d) ∧
    exec (.envSetDecay n d) s = .next (putEnv s n h
      { s.env[n.toNat] with decayTime := F32.clamp d ⟨0x3A83126F#32⟩ ⟨0x40A00000#32⟩ }) ∧
    decode ⟨cmdAt 0x12000000 n 0, d.bits⟩ = .ok (.envAddAttack n d) ∧
    exec (.envAddAttack n d) s = .next (putEnv s n h
      { s.env[n.toNat] with attackAdd := F32.clamp d F32.zero ⟨0x40A00000#32⟩ }) ∧
    decode ⟨cmdAt 0x14000000 n 0, d.bits⟩ = .ok (.envAddDecay n d) ∧
    exec (.envAddDecay n d) s = .next (putEnv s n h
      { s.env[n.toNat] with decayAdd := F32.clamp d F32.zero ⟨0x40A00000#32⟩ })

/-- R116 and R117: `ENV.SETSCALE` clamps to [+0.0, 1.0] and `ENV.SETCURVE` to [1.0, 4.0]; each
writes its one field. -/
def Obligations.EnvScaleAndCurveAreClampedAndStored : Prop :=
  ∀ (n : InstNo) (d : F32) (s : State) (h : n.toNat < Config.NUM_ENV),
    decode ⟨cmdAt 0x15000000 n 0, d.bits⟩ = .ok (.envSetScale n d) ∧
    exec (.envSetScale n d) s = .next (putEnv s n h
      { s.env[n.toNat] with outputScale := F32.clamp d F32.zero ⟨0x3F800000#32⟩ }) ∧
    decode ⟨cmdAt 0x16000000 n 0, d.bits⟩ = .ok (.envSetCurve n d) ∧
    exec (.envSetCurve n d) s = .next (putEnv s n h
      { s.env[n.toNat] with curveExponent := F32.clamp d ⟨0x3F800000#32⟩ ⟨0x40800000#32⟩ })

/-- R118: `ENV.TRIGGER` forces the attack from every stage, its time seeded from `lastOutput`. -/
def Obligations.EnvTriggerSeedsTheAttack : Prop :=
  ∀ (n : InstNo) (x : Word) (s : State) (h : n.toNat < Config.NUM_ENV),
    let e := s.env[n.toNat]
    decode ⟨cmdAt 0x17000000 n 0, x⟩ = .ok (.envTrigger n) ∧
    exec (.envTrigger n) s = .next (putEnv s n h
      { e with
        stage := .attack
        stageTime := if F32.gt e.lastOutput F32.zero
          then F32.mul e.lastOutput (F32.add e.attackTime e.attackAdd) else F32.zero })

/-- R119: `ENV.RELEASE` moves an attack to the top of the decay and has no effect in another
stage. -/
def Obligations.EnvReleaseEndsOnlyAnAttack : Prop :=
  ∀ (n : InstNo) (x : Word) (s : State) (h : n.toNat < Config.NUM_ENV),
    decode ⟨cmdAt 0x18000000 n 0, x⟩ = .ok (.envRelease n) ∧
    (s.env[n.toNat].stage = .attack → exec (.envRelease n) s = .next (putEnv s n h
      { s.env[n.toNat] with stage := .decay, stageTime := F32.zero })) ∧
    (s.env[n.toNat].stage ≠ .attack → exec (.envRelease n) s = .next s)

/-- R120: `ENV.PROCESS` advances one sample of the stage the instance is in, and answers the scaled
output. That `Off` writes `lastOutput`, as the rule's pseudocode does, is the model's reading
(assumption log 13). -/
def Obligations.EnvProcessAdvancesOneSample : Prop :=
  ∀ (n : InstNo) (x : Word) (s : State) (h : n.toNat < Config.NUM_ENV),
    let e := s.env[n.toNat]
    let st := F32.add e.stageTime e.sampleIncrement
    let up := POW (F32.div st (F32.add e.attackTime e.attackAdd)) e.curveExponent
    let down := POW (F32.sub Config.ONE
      (F32.min1 (F32.div st (F32.add e.decayTime e.decayAdd)))) e.curveExponent
    let answer : EnvUnit → Result := fun e' =>
      .next { putEnv s n h e' with resp0 := (F32.mul e'.lastOutput e.outputScale).bits }
    decode ⟨cmdAt 0x19000000 n 0, x⟩ = .ok (.envProcess n) ∧
    (e.stage = .off → exec (.envProcess n) s = answer { e with lastOutput := F32.zero }) ∧
    (e.stage = .attack → F32.ge up Config.ONE = true → exec (.envProcess n) s =
      answer { e with stage := .decay, stageTime := F32.zero, lastOutput := Config.ONE }) ∧
    (e.stage = .attack → F32.ge up Config.ONE = false → exec (.envProcess n) s =
      answer { e with stageTime := st, lastOutput := up }) ∧
    (e.stage = .decay → F32.le down Config.ENV_OFF_LEVEL = true → exec (.envProcess n) s =
      answer { e with stage := .off, stageTime := F32.zero, lastOutput := F32.zero }) ∧
    (e.stage = .decay → F32.le down Config.ENV_OFF_LEVEL = false → exec (.envProcess n) s =
      answer { e with stageTime := st, lastOutput := down })

/-- R121, R122 and R23: the read-backs answer the unscaled output and the stage code, and change
nothing but RESP0. -/
def Obligations.EnvReadbacksAnswerTheirField : Prop :=
  ∀ (n : InstNo) (x : Word) (s : State) (h : n.toNat < Config.NUM_ENV),
    decode ⟨cmdAt 0x1A000000 n 0, x⟩ = .ok (.envGetLast n) ∧
    exec (.envGetLast n) s = .next { s with resp0 := s.env[n.toNat].lastOutput.bits } ∧
    decode ⟨cmdAt 0x1B000000 n 0, x⟩ = .ok (.envGetStage n) ∧
    exec (.envGetStage n) s = .next { s with resp0 :=
      match s.env[n.toNat].stage with
      | .off => 0x00000000#32
      | .attack => 0x00000001#32
      | .decay => 0x00000002#32 }

/-- R110: whatever command runs, a stage changes only as the table of transitions lists. -/
def Obligations.StagesChangeOnlyAsTabled : Prop :=
  ∀ (i : Instr) (s t : State) (m : Fin Config.NUM_ENV), exec i s = .next t →
    t.env[m].stage ≠ s.env[m].stage →
    (i = .sysReset ∧ t.env[m].stage = .off) ∨
    ∃ n : InstNo, n.toNat = m ∧
      ((∃ d, i = .envInit n d ∧ t.env[m].stage = .off) ∨
       (i = .envTrigger n ∧ t.env[m].stage = .attack) ∨
       (i = .envRelease n ∧ s.env[m].stage = .attack ∧ t.env[m].stage = .decay) ∨
       (i = .envProcess n ∧ s.env[m].stage = .attack ∧ t.env[m].stage = .decay) ∨
       (i = .envProcess n ∧ s.env[m].stage = .decay ∧ t.env[m].stage = .off))

/-- R125: after a trigger from an output `v` above zero, the next sample's ramp is
`POW(RN(RN(v·T) + sampleIncrement) / T, c)`, cut at 1.0 where the attack ends. -/
def Obligations.RetriggerRestartsOnTheRamp : Prop :=
  ∀ (n : InstNo) (s : State) (h : n.toNat < Config.NUM_ENV),
    let e := s.env[n.toNat]
    let len := F32.add e.attackTime e.attackAdd
    let ramp := POW (F32.div (F32.add (F32.mul e.lastOutput len) e.sampleIncrement) len)
      e.curveExponent
    F32.gt e.lastOutput F32.zero = true →
    ∃ t u, exec (.envTrigger n) s = .next t ∧ exec (.envProcess n) t = .next u ∧
      u.env[n.toNat].lastOutput = if F32.ge ramp Config.ONE then Config.ONE else ramp

/-- R261: in a legal state the answer of `ENV.PROCESS` is in [0, 1]. -/
def Obligations.EnvOutputStaysInTheUnitInterval : Prop :=
  ∀ (n : InstNo) (s : State), n.toNat < Config.NUM_ENV → s.Inv →
    ∃ t, exec (.envProcess n) s = .next t ∧ F32Within F32.zero Config.ONE ⟨t.resp0⟩

/-- R124 for the linear curve: from a legal state, two samples of one attack never fall, up to and
including the 1.0 that ends it, and two samples of one decay never rise, down to and including the
+0.0 that ends it. -/
def Obligations.LinearAttackNeverFalls : Prop :=
  ∀ (n : InstNo) (s t u : State) (_ : n.toNat < Config.NUM_ENV), s.Inv →
    s.env[n.toNat].curveExponent = Config.ONE →
    exec (.envProcess n) s = .next t → exec (.envProcess n) t = .next u →
    (s.env[n.toNat].stage = .attack → t.env[n.toNat].stage = .attack →
      F32.le t.env[n.toNat].lastOutput u.env[n.toNat].lastOutput = true) ∧
    (s.env[n.toNat].stage = .decay → t.env[n.toNat].stage = .decay →
      F32.le u.env[n.toNat].lastOutput t.env[n.toNat].lastOutput = true)

/-- R33 invariant 4 and R261: in a legal state both stage lengths are at least RN(0.001), so the
divisions of R120 are by no zero. -/
def Obligations.StageLengthsAreNeverZero : Prop :=
  ∀ (s : State) (n : Fin Config.NUM_ENV), s.Inv →
    F32.le Config.ENV_TIME_MIN (F32.add s.env[n].attackTime s.env[n].attackAdd) = true ∧
    F32.le Config.ENV_TIME_MIN (F32.add s.env[n].decayTime s.env[n].decayAdd) = true

/-! ### OSC commands -/

/-- R150: every voice's frequency and phase increment from the base frequency, the detune amount and
the sample rate; every other field kept. -/
def recomputedBy (o : OscUnit) : OscUnit :=
  let hz : Fin 7 → F32 := fun i => F32.mul o.baseFrequency
    (EXP2 (F32.div (F32.mul Config.CENTS[i] o.detuneAmount) ⟨0x44960000#32⟩))
  { o with frequency := Vector.ofFn hz
           phaseIncrement := Vector.ofFn fun i => F32.div (hz i) o.sampleRate }

/-- R151 and R150: `OSC.INIT` writes every field of its instance and nothing else.
The voices are recomputed from the values just written, the model's reading of R7 (assumption
log 5). -/
def Obligations.OscInitWritesEveryField : Prop :=
  ∀ (n : InstNo) (d : F32) (s : State) (h : n.toNat < Config.NUM_OSC),
    decode ⟨cmdAt 0x20000000 n 0, d.bits⟩ = .ok (.oscInit n d) ∧
    exec (.oscInit n d) s = .next (putOsc s n h
      (recomputedBy
        { sampleRate := F32.clamp d Config.SR_MIN Config.SR_MAX
          baseFrequency := ⟨0x43DC0000#32⟩, detuneAmount := F32.zero, amplitude := F32.zero
          mode := .unison
          frequency := Vector.replicate 7 F32.zero, phaseIncrement := Vector.replicate 7 F32.zero
          phase := Vector.replicate 7 F32.zero }))

/-- R152 and R150: `OSC.SETNOTE` sets the base frequency of a MIDI note and recomputes.
The voices are recomputed from the values just written, the model's reading of R7 (assumption
log 5). -/
def Obligations.OscSetNoteSetsTheNoteFrequency : Prop :=
  ∀ (n : InstNo) (note : BitVec 7) (x : Word) (s : State) (h : n.toNat < Config.NUM_OSC),
    let o := s.osc[n.toNat]
    let e := F32.div (F32.ofInt ((note.toNat : Int) - 69)) ⟨0x41400000#32⟩
    let hz := F32.mul ⟨0x43DC0000#32⟩ (EXP2 e)
    let base := F32.clamp hz F32.zero (F32.div o.sampleRate Config.TWO)
    decode ⟨cmdAt 0x21000000 n note.toNat, x⟩ = .ok (.oscSetNote n note) ∧
    exec (.oscSetNote n note) s = .next (putOsc s n h
      (recomputedBy { o with baseFrequency := base }))

/-- R153, R155 and R150: `OSC.SETFREQ` clamps to [+0.0, sampleRate / 2.0], `OSC.SETDETUNE` to
[+0.0, 1.0], and both recompute.
The voices are recomputed from the values just written, the model's reading of R7 (assumption
log 5). -/
def Obligations.OscFrequencyAndDetuneRecompute : Prop :=
  ∀ (n : InstNo) (d : F32) (s : State) (h : n.toNat < Config.NUM_OSC),
    let o := s.osc[n.toNat]
    let base := F32.clamp d F32.zero (F32.div o.sampleRate Config.TWO)
    decode ⟨cmdAt 0x22000000 n 0, d.bits⟩ = .ok (.oscSetFreq n d) ∧
    exec (.oscSetFreq n d) s = .next (putOsc s n h
      (recomputedBy { o with baseFrequency := base })) ∧
    decode ⟨cmdAt 0x24000000 n 0, d.bits⟩ = .ok (.oscSetDetune n d) ∧
    exec (.oscSetDetune n d) s = .next (putOsc s n h
      (recomputedBy { o with detuneAmount := F32.clamp d F32.zero ⟨0x3F800000#32⟩ }))

/-- R154 and R156: `OSC.SETAMP` clamps to [+0.0, 1.0] and `OSC.SETMODE` stores its mode; each writes
its one field. -/
def Obligations.OscAmplitudeAndModeAreStored : Prop :=
  ∀ (n : InstNo) (d : F32) (mode : OscMode) (x : Word) (s : State) (h : n.toNat < Config.NUM_OSC),
    decode ⟨cmdAt 0x23000000 n 0, d.bits⟩ = .ok (.oscSetAmp n d) ∧
    exec (.oscSetAmp n d) s = .next (putOsc s n h
      { s.osc[n.toNat] with amplitude := F32.clamp d F32.zero ⟨0x3F800000#32⟩ }) ∧
    decode ⟨cmdAt 0x26000000 n (match mode with
      | .unison => 0
      | .saw1 => 1
      | .sine => 2), x⟩ = .ok (.oscSetMode n mode) ∧
    exec (.oscSetMode n mode) s = .next (putOsc s n h
      { s.osc[n.toNat] with mode := mode })

/-- R157: a voice's sample at its current phase. -/
def waveOf (o : OscUnit) (i : Fin 7) : F32 :=
  let ph := o.phase[i]
  let dt := o.phaseIncrement[i]
  let saw := F32.sub (F32.mul Config.TWO ph) Config.ONE
  if o.mode = .sine then SIN (F32.mul Config.TWO_PI32 ph)
  else if F32.lt ph dt then
    let tau := F32.div ph dt
    F32.sub saw (F32.sub (F32.sub (F32.add tau tau) (F32.mul tau tau)) Config.ONE)
  else if F32.gt ph (F32.sub Config.ONE dt) then
    let tau := F32.div (F32.sub ph Config.ONE) dt
    F32.sub saw (F32.add (F32.add (F32.mul tau tau) (F32.mul Config.TWO tau)) Config.ONE)
  else saw

/-- R158, R157 and R159: `OSC.PROCESS` answers the panned sum of the sounding voices, from the
phases before the advance, and advances every voice's phase, in every mode. -/
def Obligations.OscProcessSumsAndAdvances : Prop :=
  ∀ (n : InstNo) (x : Word) (s : State) (h : n.toNat < Config.NUM_OSC),
    let o := s.osc[n.toNat]
    let voices : List (Fin 7) := if o.mode = .unison then [0, 1, 2, 3, 4, 5, 6] else [0]
    let norm := if o.mode = .unison then Config.NORM7 else Config.ONE
    let share : F32 → Fin 7 → F32 := fun weight i =>
      F32.mul (F32.mul (F32.mul (waveOf o i) weight) Config.HALF) norm
    let l := voices.foldl
      (fun acc i => F32.add acc (share (F32.sub Config.ONE Config.PAN[i]) i)) F32.zero
    let r := voices.foldl
      (fun acc i => F32.add acc (share (F32.add Config.ONE Config.PAN[i]) i)) F32.zero
    let advance : Fin 7 → F32 := fun i =>
      let p := F32.add o.phase[i] o.phaseIncrement[i]
      if F32.ge p Config.ONE then F32.sub p Config.ONE else p
    decode ⟨cmdAt 0x25000000 n 0, x⟩ = .ok (.oscProcess n) ∧
    exec (.oscProcess n) s = .next
      { putOsc s n h { o with phase := Vector.ofFn advance } with
        resp0 := (F32.mul l o.amplitude).bits
        resp1 := (F32.mul r o.amplitude).bits }

/-- R161: after note 69 voice 0's increment is RN(440.0 / sampleRate) at every detune amount. -/
def Obligations.NoteSixtyNineIncrementIsExact : Prop :=
  ∀ (n : InstNo) (s : State) (_ : n.toNat < Config.NUM_OSC), s.Inv →
    ∃ t, exec (.oscSetNote n 69) s = .next t ∧
      t.osc[n.toNat].phaseIncrement[0] = F32.div ⟨0x43DC0000#32⟩ s.osc[n.toNat].sampleRate

/-- R159: with a phase and an increment in [0, 1) the advanced phase is in [0, 1), and where it
wraps the subtraction is exact. -/
def Obligations.PhaseAdvanceWrapsExactly : Prop :=
  ∀ phase inc : F32, F32BelowOne phase → F32BelowOne inc →
    F32BelowOne (advancedPhase phase inc) ∧
    (F32.ge (F32.add phase inc) Config.ONE = true →
      (advancedPhase phase inc).val = (F32.add phase inc).val - 2 ^ 149)

/-! ### FLT commands and the coefficient table -/

/-- R201 and R193: `FLT.INIT` rebuilds the table, which every instance shares, and resets its own
instance alone. -/
def Obligations.FltInitRebuildsTheTable : Prop :=
  ∀ (n : InstNo) (d : F32) (s : State) (h : n.toNat < Config.NUM_FLT),
    let cleared : FltUnit :=
      { cutoffPosition := Config.ONE, cutoffAddition := F32.zero
        resonancePosition := F32.zero, interp := .bilinear, s1 := F32.zero, s2 := F32.zero }
    decode ⟨cmdAt 0x30000000 n 0, d.bits⟩ = .ok (.fltInit n d) ∧
    exec (.fltInit n d) s = .next
      { putFlt s n h cleared with tab := buildTable (F32.clamp d Config.SR_MIN Config.SR_MAX) }

/-- `FLT_MAX_FREQ(sr)` of R5: 20000.0 if `20000.0 <= RN(RN(0.45) · sr)`, else that product. -/
def maxFreqAt (sr : F32) : F32 :=
  if F32.le ⟨0x469C4000#32⟩ (F32.mul ⟨0x3EE66666#32⟩ sr) then ⟨0x469C4000#32⟩
  else F32.mul ⟨0x3EE66666#32⟩ sr

/-- R190: the entry at every grid point of the table built for a sample rate. -/
def Obligations.BuiltTableHoldsTheDesign : Prop :=
  ∀ (sr : F32) (j : Fin Config.RS) (i : Fin Config.FS),
    let f := F32.mul Config.FLT_MIN_FREQ
      (POW (F32.div (maxFreqAt sr) Config.FLT_MIN_FREQ) (F32.div (F32.ofInt i.val) (F32.ofInt 511)))
    let q := F32.add Config.FLT_MIN_Q (F32.mul (F32.sub Config.FLT_MAX_Q Config.FLT_MIN_Q)
      (F32.div (F32.ofInt j.val) (F32.ofInt 31)))
    (buildTable sr).sr = sr ∧
    (buildTable sr).entry[j][i] =
      { g := TAN (F32.div (F32.mul Config.PI32 f) sr)
        R := F32.div Config.ONE (F32.mul Config.TWO q)
        comp := ⟨0x3F800000#32⟩ }

/-- R193 and R68: the table changes only where `FLT.INIT` or reset builds it anew. -/
def Obligations.TableChangesOnlyWhereBuilt : Prop :=
  ∀ (i : Instr) (s t : State), exec i s = .next t →
    t.tab = s.tab ∨
    (∃ n d, i = .fltInit n d ∧ t.tab = buildTable (F32.clamp d Config.SR_MIN Config.SR_MAX)) ∨
    (i = .sysReset ∧ t.tab = buildTable Config.SR_RESET)

/-- R202 to R204 and R208: the filter setters write their one field; `FLT.ADDFREQ` stores any
pattern unchanged. -/
def Obligations.FltSettersStoreTheirField : Prop :=
  ∀ (n : InstNo) (d : F32) (mode : Lookup) (x : Word) (s : State) (h : n.toNat < Config.NUM_FLT),
    decode ⟨cmdAt 0x31000000 n 0, d.bits⟩ = .ok (.fltSetFreq n d) ∧
    exec (.fltSetFreq n d) s = .next (putFlt s n h
      { s.flt[n.toNat] with cutoffPosition := F32.clamp d F32.zero ⟨0x3F800000#32⟩ }) ∧
    decode ⟨cmdAt 0x32000000 n 0, d.bits⟩ = .ok (.fltAddFreq n d) ∧
    exec (.fltAddFreq n d) s = .next (putFlt s n h
      { s.flt[n.toNat] with cutoffAddition := d }) ∧
    decode ⟨cmdAt 0x33000000 n 0, d.bits⟩ = .ok (.fltSetQ n d) ∧
    exec (.fltSetQ n d) s = .next (putFlt s n h
      { s.flt[n.toNat] with resonancePosition := F32.clamp d F32.zero ⟨0x3F800000#32⟩ }) ∧
    decode ⟨cmdAt 0x37000000 n (match mode with
      | .nearest => 0
      | .bilinear => 1), x⟩ = .ok (.fltSetLookup n mode) ∧
    exec (.fltSetLookup n mode) s = .next (putFlt s n h
      { s.flt[n.toNat] with interp := mode })

/-- R205 and R206: the filter read-backs answer the cutoff in Hz and the Q of the set positions, and
change nothing but RESP0. -/
def Obligations.FltReadbacksAnswerHzAndQ : Prop :=
  ∀ (n : InstNo) (x : Word) (s : State) (h : n.toNat < Config.NUM_FLT),
    let f := s.flt[n.toNat]
    decode ⟨cmdAt 0x34000000 n 0, x⟩ = .ok (.fltGetFreq n) ∧
    exec (.fltGetFreq n) s = .next { s with resp0 :=
      (F32.mul Config.FLT_MIN_FREQ (POW (F32.div (maxFreqAt s.tab.sr) Config.FLT_MIN_FREQ)
        f.cutoffPosition)).bits } ∧
    decode ⟨cmdAt 0x35000000 n 0, x⟩ = .ok (.fltGetQ n) ∧
    exec (.fltGetQ n) s = .next { s with resp0 :=
      (F32.add Config.FLT_MIN_Q
        (F32.mul (F32.sub Config.FLT_MAX_Q Config.FLT_MIN_Q) f.resonancePosition)).bits }

/-- R195: a position in [0, 1] has its two neighbouring steps inside the axis and a weight in
[0, 1). -/
def Obligations.LegalPositionsIndexInsideTheGrid : Prop :=
  ∀ (x : F32) (steps : Nat), F32Within F32.zero Config.ONE x →
    steps = Config.FS ∨ steps = Config.RS →
    ∃ g : GridIndex steps, gridIndex x steps = some g ∧
      (let u := F32.mul x (F32.ofInt (steps - 1 : Nat))
       g.k0.val = u.mag / 2 ^ 149 ∧ g.k1.val = min (g.k0.val + 1) (steps - 1) ∧
       g.w = F32.sub u (F32.ofInt g.k0.val) ∧ F32BelowOne g.w)

/-- R194, R195 and R196: the coefficients of a lookup: the cell at or below the position, or the
interpolation of four cells along frequency and then resonance. -/
def Obligations.LookupReadsTheGrid : Prop :=
  ∀ (t : Table) (f : FltUnit) (gi : GridIndex Config.FS) (gj : GridIndex Config.RS),
    gridIndex (F32.clamp (F32.add f.cutoffPosition f.cutoffAddition) F32.zero Config.ONE)
      Config.FS = some gi →
    gridIndex f.resonancePosition Config.RS = some gj →
    let line : F32 → F32 → F32 → F32 := fun u v w => F32.add u (F32.mul w (F32.sub v u))
    let plane : (Entry → F32) → F32 := fun k =>
      line (line (k t.entry[gj.k0][gi.k0]) (k t.entry[gj.k0][gi.k1]) gi.w)
        (line (k t.entry[gj.k1][gi.k0]) (k t.entry[gj.k1][gi.k1]) gi.w) gj.w
    lookup t f = some
      (match f.interp with
       | .nearest => t.entry[gj.k0][gi.k0]
       | .bilinear => { g := plane Entry.g, R := plane Entry.R, comp := plane Entry.comp })

/-- R207 and R197: from a filter with a legal resonance position `FLT.PROCESS` always completes:
the looked-up coefficients drive one step of the state-variable filter. -/
def Obligations.FltProcessRunsTheFilterStep : Prop :=
  ∀ (n : InstNo) (x : F32) (s : State) (h : n.toNat < Config.NUM_FLT),
    F32Within F32.zero Config.ONE s.flt[n.toNat].resonancePosition →
    decode ⟨cmdAt 0x36000000 n 0, x.bits⟩ = .ok (.fltProcess n x) ∧
    ∃ c, lookup s.tab s.flt[n.toNat] = some c ∧
      (let f := s.flt[n.toNat]
       let twoR := F32.mul Config.TWO c.R
       let gain := F32.div Config.ONE
         (F32.add (F32.add Config.ONE (F32.mul twoR c.g)) (F32.mul c.g c.g))
       let hp := F32.mul (F32.sub (F32.sub x (F32.mul (F32.add twoR c.g) f.s1)) f.s2) gain
       let v1 := F32.mul c.g hp
       let bp := TANH (F32.add v1 f.s1)
       let v2 := F32.mul c.g bp
       let lp := F32.add v2 f.s2
       exec (.fltProcess n x) s = .next
         { putFlt s n h { f with s1 := F32.add v1 bp, s2 := F32.add v2 lp } with
           resp0 := (F32.mul lp c.comp).bits })

/-- The model's own stop (assumption log 4): a resonance position that is NaN, which no run from
reset stores, has no table index (R60, R195). -/
def Obligations.NanResonanceStopsTheLookup : Prop :=
  ∀ (n : InstNo) (x : F32) (s : State) (_ : n.toNat < Config.NUM_FLT),
    s.flt[n.toNat].resonancePosition.isNaN = true →
    exec (.fltProcess n x) s = .fault .tableIndex

/-- R287: a NaN sample makes both states and the output NaN at once, a filter whose `s1` is NaN
answers NaN to every sample, and no command but `FLT.INIT` of the instance and `SYS.RESET` takes a
NaN out of `s1` or of `s2`. -/
def Obligations.NanPoisonsTheFilter : Prop :=
  (∀ (n : InstNo) (x : F32) (s : State) (_ : n.toNat < Config.NUM_FLT),
    F32Within F32.zero Config.ONE s.flt[n.toNat].resonancePosition →
    x.isNaN = true ∨ s.flt[n.toNat].s1.isNaN = true →
    ∃ t, exec (.fltProcess n x) s = .next t ∧ t.flt[n.toNat].s1.isNaN = true ∧
      t.flt[n.toNat].s2.isNaN = true ∧ F32.isNaN ⟨t.resp0⟩ = true) ∧
  (∀ (i : Instr) (s t : State) (m : Fin Config.NUM_FLT), exec i s = .next t →
    i ≠ .sysReset → (∀ n d, i = .fltInit n d → n.toNat ≠ m) →
    (s.flt[m].s1.isNaN = true → t.flt[m].s1.isNaN = true) ∧
    (s.flt[m].s2.isNaN = true → t.flt[m].s2.isNaN = true))

/-- R198: the band-pass value is in [-1, 1] on every step whose TANH argument is not NaN. -/
def Obligations.BandPassIsSaturated : Prop :=
  ∀ (f : FltUnit) (x : F32) (c : Entry),
    (F32.add (svfV1 f x c) f.s1).isNaN = false → (svfBandPass f x c).low ≤ Config.ONE.low

/-- R196: interpolation between equal finite ends is the end itself, at every finite weight, with one
exception: an end of -0.0 may come back as +0.0. An end of +0.0 comes back as +0.0. The exception is
the model's departure from R196's words, which its three operations force (assumption log 20). -/
def Obligations.LerpOfEqualEndsIsTheEnd : Prop :=
  ∀ u w : F32, u.isFinite = true → w.isFinite = true →
    lerp u u w = u ∨ (u = ⟨0x80000000#32⟩ ∧ lerp u u w = F32.zero)

/-! ### The whole block -/

/-- R33 and the legal values of R22 to R28: every step from a legal state leaves a legal state. The
bound on `stageTime` is the model's (assumption log 6). -/
def Obligations.EveryStepKeepsTheInvariant : Prop :=
  ∀ s t : State, s.Inv → step s = .next t → t.Inv

/-- R260 and R274: from a legal state the block never faults and never refuses, whatever record the
host sends. -/
def Obligations.LegalBlockNeverStops : Prop :=
  ∀ s : State, s.Inv → ∃ t, step s = .next t

/-- R20 and R270: but for reset, a command changes no instance but the one its INST names. -/
def Obligations.CommandsKeepOtherInstances : Prop :=
  ∀ (i : Instr) (s t : State), exec i s = .next t → i ≠ .sysReset →
    (∀ m : Fin Config.NUM_ENV, (∀ n, target i = .env n → n.toNat ≠ m) → t.env[m] = s.env[m]) ∧
    (∀ m : Fin Config.NUM_OSC, (∀ n, target i = .osc n → n.toNat ≠ m) → t.osc[m] = s.osc[m]) ∧
    (∀ m : Fin Config.NUM_FLT, (∀ n, target i = .flt n → n.toNat ≠ m) → t.flt[m] = s.flt[m])

/-- R29 and R286: RESP0 and RESP1 change only by the commands that answer, and no command touches
the records still to come (the port is the model's own field, assumption log 1). -/
def Obligations.ResponsesChangeOnlyByAnswers : Prop :=
  ∀ (i : Instr) (s t : State), exec i s = .next t →
    (writesResp0 i = false → t.resp0 = s.resp0) ∧
    (i ≠ .sysReset → (∀ n, i ≠ .oscProcess n) → t.resp1 = s.resp1) ∧
    t.port = s.port

/-- R92: NOTEON expands to nothing at velocity 0, else to the note and both triggers. -/
def Obligations.NoteOnExpandsByVelocity : Prop :=
  ∀ note velocity : BitVec 7,
    noteOn note 0 = [] ∧
    (velocity ≠ 0 → noteOn note velocity = [.oscSetNote 0 note, .envTrigger 0, .envTrigger 1])

/-- R91: from a legal state a FRAME runs its eight commands in order, each response copied into the
DATA of the commands R91 names, its output is the two filter responses, and the state after it is
legal. The bound on `stageTime` in the invariant is the model's (assumption log 6). -/
def Obligations.FrameCompletesFromLegalStates : Prop :=
  ∀ s : State, s.Inv → ∃ s1 s2 s3 s4 s5 s6 s7 s8 : State,
    exec (.envProcess 0#8) s = .next s1 ∧
    exec (.oscSetAmp 0#8 ⟨s1.resp0⟩) s1 = .next s2 ∧
    exec (.envProcess 1#8) s2 = .next s3 ∧
    exec (.fltAddFreq 0#8 ⟨s3.resp0⟩) s3 = .next s4 ∧
    exec (.fltAddFreq 1#8 ⟨s3.resp0⟩) s4 = .next s5 ∧
    exec (.oscProcess 0#8) s5 = .next s6 ∧
    exec (.fltProcess 0#8 ⟨s6.resp0⟩) s6 = .next s7 ∧
    exec (.fltProcess 1#8 ⟨s6.resp1⟩) s7 = .next s8 ∧
    frame s = .next { state := s8, outL := ⟨s7.resp0⟩, outR := ⟨s8.resp0⟩ } ∧ s8.Inv

/-! ### Numerics -/

/-- R8: rounding a rational magnitude gives a nearest binary32 magnitude, and of two equally near
ones the even pattern. -/
def Obligations.RoundingIsToNearestEven : Prop :=
  ∀ num den : Nat, 0 < den → roundMag num den < F32.infLow →
    let dist : Nat → Int := fun low => |(F32.magOf low * den : Int) - num|
    ∀ low < F32.infLow, dist (roundMag num den) ≤ dist low ∧
      (dist low = dist (roundMag num den) → low ≠ roundMag num den →
        roundMag num den % 2 = 0)

/-- R10: the clamp gives `lo` for NaN and for everything at or below it, `hi` for everything at or
above it, and else its operand; it never leaves the range. -/
def Obligations.ClampMeetsItsRule : Prop :=
  ∀ x lo hi : F32, F32.le lo hi = true →
    ((x.isNaN = true ∨ F32.le x lo = true) → F32.clamp x lo hi = lo) ∧
    (x.isNaN = false → F32.le x lo = false → F32.le hi x = true → F32.clamp x lo hi = hi) ∧
    (x.isNaN = false → F32.le x lo = false → F32.le hi x = false → F32.clamp x lo hi = x) ∧
    F32.le lo (F32.clamp x lo hi) = true ∧ F32.le (F32.clamp x lo hi) hi = true

/-- R11: comparisons are false with a NaN operand and are those of the values of finite operands,
so +0.0 equals -0.0. -/
def Obligations.ComparisonsFollowTheValues : Prop :=
  ∀ x y : F32,
    (x.isNaN = true ∨ y.isNaN = true → F32.lt x y = false ∧ F32.le x y = false) ∧
    (x.isFinite = true → y.isFinite = true →
      (F32.lt x y = true ↔ x.val < y.val) ∧ (F32.le x y = true ↔ x.val ≤ y.val))

/-- R9: `POW(x, 1) = x`, `POW(x, 0) = 1` for x > 0, `POW(1, c) = 1` and `POW(+0, c) = +0`. -/
def Obligations.PowMeetsItsIdentities : Prop :=
  ∀ x c : F32, x.sign = false → x.isFinite = true →
    F32Within F32.zero ⟨0x40800000#32⟩ c →
    POW x Config.ONE = x ∧ (x.low ≠ 0 → POW x F32.zero = Config.ONE) ∧
    POW Config.ONE c = Config.ONE ∧ POW F32.zero c = F32.zero

/-- R9: `POW(x, c)` is in [0, 1] when `x` is in [0, 1], and at least 1 when `x` is. -/
def Obligations.PowKeepsToItsSideOfOne : Prop :=
  ∀ x c : F32, x.sign = false → x.isFinite = true →
    F32Within F32.zero ⟨0x40800000#32⟩ c →
    (x.low ≤ Config.ONE.low → F32Within F32.zero Config.ONE (POW x c)) ∧
    (Config.ONE.low ≤ x.low → F32.le Config.ONE (POW x c) = true)

/-- R9: `EXP2(k) = 2^k` for every integer k in [-10, 10]. -/
def Obligations.Exp2OfSmallIntegersIsExact : Prop :=
  ∀ k : Fin 21, EXP2 (F32.ofInt ((k.val : Int) - 10)) =
    ⟨BitVec.ofNat 32 ((117 + k.val) * 2 ^ 23)⟩

/-- R9: `TANH` is odd, bounded by 1 and the identity at zero, with the limits ±1 at ±Inf and NaN at
NaN; `SIN` of a finite argument is bounded by 1. -/
def Obligations.TanhIsOddAndTanhAndSinAreBounded : Prop :=
  ∀ x : F32,
    (x.isNaN = true → TANH x = F32.qNaN) ∧
    (x.isNaN = false → TANH x.neg = (TANH x).neg ∧ (TANH x).low ≤ Config.ONE.low) ∧
    (x.low = 0 → TANH x = x) ∧
    (x.isInf = true → TANH x = if x.sign then ⟨0xBF800000#32⟩ else ⟨0x3F800000#32⟩) ∧
    (x.isFinite = true → (SIN x).low ≤ Config.ONE.low)

/-- R9: where both bounds of an enclosure round to one finite pattern, that pattern is a nearest one
to every real number between the bounds. -/
def Obligations.SettledEnclosureIsNearest : Prop :=
  ∀ (e : Enclosure) (r : ℝ), 0 < e.lo.den → 0 < e.hi.den →
    (e.lo.num : ℝ) / e.lo.den ≤ r → r ≤ (e.hi.num : ℝ) / e.hi.den →
    e.lo.round = e.hi.round → e.lo.round < F32.infLow →
    ∀ low < F32.infLow, |(F32.magOf e.lo.round : ℝ) - r| ≤ |(F32.magOf low : ℝ) - r|

/-- R9: the enclosure behind `EXP2` holds the exact real result, in units of 2^-149, at every
precision. The enclosures are the model's method (assumption log 2). -/
def Obligations.ExponentialEnclosureIsSound : Prop :=
  ∀ (v : ℤ) (p : ℕ),
    let value : ℝ := (2 : ℝ) ^ ((v : ℝ) / 2 ^ 149) * 2 ^ 149
    let e := exp2Enclosure v p
    (e.lo.num : ℝ) / e.lo.den ≤ value ∧ value ≤ (e.hi.num : ℝ) / e.hi.den

/-- R9: the enclosure behind `POW` holds the exact real result, in units of 2^-149, at every
precision of at least three bits. The enclosures are the model's method (assumption log 2). -/
def Obligations.PowerEnclosureIsSound : Prop :=
  ∀ k cu p : ℕ, 0 < k → 3 ≤ p →
    let value : ℝ := ((k : ℝ) / 2 ^ 149) ^ ((cu : ℝ) / 2 ^ 149) * 2 ^ 149
    let e := powEnclosure k cu p
    (e.lo.num : ℝ) / e.lo.den ≤ value ∧ value ≤ (e.hi.num : ℝ) / e.hi.den
end

