-- ==== Sys2Proof/Laws/Binary32.lean ====
section
/-! SUPPORT. Binary32 patterns and rounding: patterns read back, rounding is exact on what needs no
rounding, monotone, and never above the pattern of Inf. -/

namespace Sys2Proof

/-! ### Patterns -/

theorem low_lt (x : F32) : x.low < 2 ^ 31 := Nat.mod_lt _ (by decide)

@[simp] theorem sign_ofLow (neg : Bool) {low : Nat} (h : low < 2 ^ 31) :
    (F32.ofLow neg low).sign = neg := by
  cases neg <;> simp [F32.sign, F32.ofLow] <;> omega

@[simp] theorem low_ofLow (neg : Bool) {low : Nat} (h : low < 2 ^ 31) :
    (F32.ofLow neg low).low = low := by
  cases neg <;> simp [F32.low, F32.ofLow] <;> omega

/-- A pattern is its sign and its magnitude pattern. -/
theorem ofLow_sign_low (x : F32) : F32.ofLow x.sign x.low = x := by
  obtain ⟨b⟩ := x
  have hb := b.isLt
  unfold F32.ofLow
  congr 1
  apply BitVec.eq_of_toNat_eq
  simp only [F32.sign, F32.low, decide_eq_true_eq, BitVec.toNat_ofNat]
  split_ifs <;> omega

theorem F32.ext_low {x y : F32} (hs : x.sign = y.sign) (hl : x.low = y.low) : x = y := by
  rw [← ofLow_sign_low x, ← ofLow_sign_low y, hs, hl]

theorem isNaN_eq_false {x : F32} (h : x.low ≤ F32.infLow) : x.isNaN = false := by
  simp [F32.isNaN]; omega

theorem isInf_eq_false {x : F32} (h : x.low < F32.infLow) : x.isInf = false := by
  simp [F32.isInf]; omega

/-! ### Magnitudes -/

theorem magOf_of_lt {low : Nat} (h : low < 2 ^ 24) : F32.magOf low = low := by
  unfold F32.magOf
  have h2 : low / 2 ^ 23 = 0 ∨ low / 2 ^ 23 = 1 := by omega
  rcases h2 with h2 | h2 <;> rw [h2]
  show (2 ^ 23 + low % 2 ^ 23) * 2 ^ 0 = low
  omega

theorem magOf_succ {low e : Nat} (h : low / 2 ^ 23 = e + 1) :
    F32.magOf low = (2 ^ 23 + low % 2 ^ 23) * 2 ^ e := by
  unfold F32.magOf
  rw [h]

/-! ### Rounding to the nearest integer, ties to even -/

theorem divEven_le (a b : Nat) : divEven a b ≤ a / b + 1 := by
  unfold divEven; dsimp only; split_ifs <;> omega

theorem le_divEven (a b : Nat) : a / b ≤ divEven a b := by
  unfold divEven; dsimp only; split_ifs <;> omega

theorem divEven_mul (m : Nat) {b : Nat} (hb : 0 < b) : divEven (m * b) b = m := by
  unfold divEven
  simp [Nat.mul_div_cancel _ hb, hb]

/-- Rounding keeps the order of two rationals. -/
theorem divEven_mono {a b c d : Nat} (hb : 0 < b) (hd : 0 < d) (h : a * d ≤ c * b) :
    divEven a b ≤ divEven c d := by
  have ha := Nat.div_add_mod a b
  have hc := Nat.div_add_mod c d
  have hra := Nat.mod_lt a hb
  have hrc := Nat.mod_lt c hd
  generalize hm : a / b = m at *
  generalize hn : c / d = n at *
  generalize hr : a % b = r at *
  generalize ht : c % d = t at *
  subst ha hc
  have hmn : m ≤ n := by
    by_contra hlt
    have h1 : n + 1 ≤ m := by omega
    have h2 : d * b * (n + 1) ≤ d * b * m := Nat.mul_le_mul_left _ h1
    have h3 : t * b < d * b := Nat.mul_lt_mul_of_pos_right hrc hb
    nlinarith
  rcases Nat.lt_or_ge m n with hlt | hge
  · have h1 := divEven_le (b * m + r) b
    have h2 := le_divEven (d * n + t) d
    rw [hm] at h1
    rw [hn] at h2
    omega
  · obtain rfl : m = n := by omega
    have hrt : r * d ≤ t * b := by nlinarith
    unfold divEven
    dsimp only
    rw [hm, hn, hr, ht]
    by_cases h1 : 2 * r < b
    · rw [if_pos h1]; split_ifs <;> omega
    · rw [if_neg h1]
      have h2 : b ≤ 2 * r := by omega
      have h3 : d ≤ 2 * t := by
        by_contra hlt
        have h4 : 2 * t * b < d * b := Nat.mul_lt_mul_of_pos_right (by omega) hb
        have h5 : b * d ≤ 2 * r * d := Nat.mul_le_mul_right _ h2
        nlinarith
      rw [if_neg (by omega : ¬ 2 * t < d)]
      by_cases h4 : b < 2 * r
      · have h5 : d < 2 * t := by
          by_contra hle
          have h6 : 2 * t * b ≤ d * b := Nat.mul_le_mul_right _ (by omega)
          have h7 : b * d < 2 * r * d := Nat.mul_lt_mul_of_pos_right h4 hd
          nlinarith
        rw [if_pos h4, if_pos h5]
      · rw [if_neg h4]; split_ifs <;> omega

/-! ### Rounding to a pattern -/

theorem log2_le_log2 {a b : Nat} (h : a ≤ b) : a.log2 ≤ b.log2 := by
  by_cases ha : a = 0
  · simp [ha]
  · exact (Nat.le_log2 (by omega)).2 (le_trans (Nat.log2_self_le ha) h)

theorem roundMag_le (num den : Nat) : roundMag num den ≤ F32.infLow := Nat.min_le_right _ _

theorem infLow_lt : F32.infLow < 2 ^ 31 := by decide

theorem roundMag_lt (num den : Nat) : roundMag num den < 2 ^ 31 :=
  Nat.lt_of_le_of_lt (roundMag_le num den) infLow_lt

/-- Rounding keeps the order of two magnitudes. -/
theorem roundMag_mono {a b c d : Nat} (hb : 0 < b) (hd : 0 < d) (h : a * d ≤ c * b) :
    roundMag a b ≤ roundMag c d := by
  unfold roundMag roundAt
  have hq : a / b ≤ c / d := by
    rw [Nat.le_div_iff_mul_le hd]
    have h1 : a / b * b ≤ a := Nat.div_mul_le_self a b
    have h2 : a / b * d * b ≤ c * b := by nlinarith
    exact Nat.le_of_mul_le_mul_right h2 hb
  have hl : (a / b).log2 ≤ (c / d).log2 := log2_le_log2 hq
  generalize hs : (a / b).log2 - 23 = s
  generalize hu : (c / d).log2 - 23 = u
  have hsu : s ≤ u := by omega
  have hps : 0 < b * 2 ^ s := Nat.mul_pos hb (Nat.two_pow_pos s)
  have hpu : 0 < d * 2 ^ u := Nat.mul_pos hd (Nat.two_pow_pos u)
  apply min_le_min_right
  rcases Nat.eq_or_lt_of_le hsu with rfl | hlt
  · apply Nat.add_le_add_left
    apply divEven_mono hps hpu
    nlinarith [Nat.two_pow_pos s]
  · have h1 : divEven a (b * 2 ^ s) ≤ 2 ^ 24 := by
      rw [← divEven_mul (2 ^ 24) hps]
      apply divEven_mono hps hps
      have h2 : a / b < 2 ^ (s + 24) := by
        by_cases h0 : a / b = 0
        · rw [h0]; exact Nat.two_pow_pos _
        · exact (Nat.log2_lt h0).1 (by omega)
      have h3 : a < 2 ^ (s + 24) * b := (Nat.div_lt_iff_lt_mul hb).1 h2
      have h4 : 2 ^ (s + 24) = 2 ^ 24 * 2 ^ s := by rw [pow_add]; ring
      apply Nat.mul_le_mul_right
      rw [h4] at h3
      nlinarith
    have h2 : 2 ^ 23 ≤ divEven c (d * 2 ^ u) := by
      refine le_trans ?_ (le_divEven _ _)
      rw [Nat.le_div_iff_mul_le hpu]
      have h0 : c / d ≠ 0 := by
        intro h0
        rw [h0] at hu
        simp at hu
        omega
      have h3 : 2 ^ (u + 23) ≤ c / d := (Nat.le_log2 h0).1 (by omega)
      have h4 := (Nat.le_div_iff_mul_le hd).1 h3
      calc 2 ^ 23 * (d * 2 ^ u) = 2 ^ (u + 23) * d := by rw [pow_add]; ring
        _ ≤ c := h4
    omega

/-- A magnitude that is one of the patterns needs no rounding. -/
theorem roundMag_magOf {low k : Nat} (h : low < F32.infLow) (hk : 0 < k) :
    roundMag (F32.magOf low * k) k = low := by
  unfold roundMag
  rw [Nat.mul_div_cancel _ hk]
  rcases Nat.lt_or_ge low (2 ^ 24) with hlt | hge
  · rw [magOf_of_lt hlt]
    have h0 : low.log2 - 23 = 0 := by
      by_cases hz : low = 0
      · simp [hz]
      · have := (Nat.log2_lt hz).2 hlt
        omega
    rw [h0]
    simp only [roundAt, pow_zero, Nat.mul_one, Nat.zero_mul, Nat.zero_add, divEven_mul _ hk]
    omega
  · obtain ⟨e, he⟩ : ∃ e, low / 2 ^ 23 = e + 1 := ⟨low / 2 ^ 23 - 1, by omega⟩
    rw [magOf_succ he]
    generalize hm : 2 ^ 23 + low % 2 ^ 23 = m
    have hlo : 2 ^ 23 ≤ m := by omega
    have hhi : m < 2 ^ 24 := by omega
    have hlog : (m * 2 ^ e).log2 - 23 = e := by
      have hne : m * 2 ^ e ≠ 0 := by
        have := Nat.two_pow_pos e
        have : 0 < m * 2 ^ e := Nat.mul_pos (by omega) this
        omega
      have h1 : (m * 2 ^ e).log2 < e + 24 := by
        rw [Nat.log2_lt hne, pow_add, Nat.mul_comm (2 ^ e)]
        exact Nat.mul_lt_mul_of_pos_right hhi (Nat.two_pow_pos e)
      have h2 : e + 23 ≤ (m * 2 ^ e).log2 := by
        rw [Nat.le_log2 hne, pow_add, Nat.mul_comm (2 ^ e)]
        exact Nat.mul_le_mul_right _ hlo
      omega
    rw [hlog, roundAt]
    have h3 : m * 2 ^ e * k = m * (k * 2 ^ e) := by ring
    rw [h3, divEven_mul _ (Nat.mul_pos hk (Nat.two_pow_pos e))]
    have : e * 2 ^ 23 + m = low := by omega
    omega

/-- What is at most a finite pattern rounds to at most that pattern. -/
theorem roundMag_le_of_le {num den low : Nat} (hd : 0 < den) (hl : low < F32.infLow)
    (h : num ≤ F32.magOf low * den) : roundMag num den ≤ low := by
  rw [← roundMag_magOf hl hd]
  exact roundMag_mono hd hd (Nat.mul_le_mul_right _ h)

/-- What is at least a finite pattern rounds to at least that pattern. -/
theorem le_roundMag_of_le {num den low : Nat} (hd : 0 < den) (hl : low < F32.infLow)
    (h : F32.magOf low * den ≤ num) : low ≤ roundMag num den := by
  rw [← roundMag_magOf hl hd]
  exact roundMag_mono hd hd (Nat.mul_le_mul_right _ h)

/-- The order of finite magnitude patterns is the order of their magnitudes. -/
theorem magOf_le_magOf {a b : Nat} (ha : a < F32.infLow) (hb : b < F32.infLow) :
    F32.magOf a ≤ F32.magOf b ↔ a ≤ b := by
  constructor
  · intro h
    have h1 := roundMag_magOf ha Nat.one_pos
    have h2 := roundMag_le_of_le (num := F32.magOf a * 1) Nat.one_pos hb (by omega)
    omega
  · intro h
    by_contra hlt
    have h1 := roundMag_le_of_le (num := F32.magOf b * 1) Nat.one_pos ha (by omega)
    rw [roundMag_magOf hb Nat.one_pos] at h1
    obtain rfl : a = b := by omega
    omega

theorem sign_roundSigned (neg : Bool) (num den : Nat) : (roundSigned neg num den).sign = neg :=
  sign_ofLow neg (roundMag_lt num den)

theorem low_roundSigned (neg : Bool) (num den : Nat) :
    (roundSigned neg num den).low = roundMag num den :=
  low_ofLow neg (roundMag_lt num den)

end Sys2Proof
end

