-- ==== Sys2Proof/Laws/Arithmetic.lean ====
section
/-! SUPPORT. What each binary32 operation gives on nonnegative finite operands, and that a clamp
lands in its range: one lemma per operation, for proofs that never unfold it. -/

namespace Sys2Proof

open Sys2Proof.Machine

/-- Nonnegative (with the sign of +0.0) and finite. -/
def F32.Nonneg (x : F32) : Prop := x.sign = false ∧ x.low < F32.infLow

theorem F32.Nonneg.of_within {lo hi x : F32} (h : F32Within lo hi x) (hh : hi.low < F32.infLow) :
    x.Nonneg := ⟨h.1, lt_of_le_of_lt h.2.2 hh⟩

theorem F32.Nonneg.not_nan {x : F32} (h : x.Nonneg) : x.isNaN = false :=
  isNaN_eq_false (le_of_lt h.2)

theorem F32.Nonneg.not_inf {x : F32} (h : x.Nonneg) : x.isInf = false := isInf_eq_false h.2

theorem F32.Nonneg.finite {x : F32} (h : x.Nonneg) : x.isFinite = true := decide_eq_true h.2

theorem F32.Nonneg.val_eq {x : F32} (h : x.Nonneg) : x.val = (x.mag : Int) := by
  simp [F32.val, h.1]

theorem F32.Nonneg.ord_eq {x : F32} (h : x.Nonneg) : x.ord = (x.low : Int) := by
  simp [F32.ord, h.1]

theorem F32.Nonneg.le_iff {x y : F32} (hx : x.Nonneg) (hy : y.Nonneg) :
    x.le y = true ↔ x.low ≤ y.low := by
  simp [F32.le, hx.not_nan, hy.not_nan, hx.ord_eq, hy.ord_eq]

theorem F32.Nonneg.lt_iff {x y : F32} (hx : x.Nonneg) (hy : y.Nonneg) :
    x.lt y = true ↔ x.low < y.low := by
  simp [F32.lt, hx.not_nan, hy.not_nan, hx.ord_eq, hy.ord_eq]

/-- The magnitudes of nonnegative finite values are ordered as their patterns. -/
theorem F32.Nonneg.mag_le_iff {x y : F32} (hx : x.Nonneg) (hy : y.Nonneg) :
    x.mag ≤ y.mag ↔ x.low ≤ y.low := magOf_le_magOf hx.2 hy.2

theorem F32.Nonneg.mag_pos {x : F32} (hx : x.Nonneg) (h : 0 < x.low) : 0 < x.mag := by
  by_contra h0
  have h1 : F32.magOf x.low ≤ F32.magOf 0 := by
    have : x.mag = 0 := by omega
    unfold F32.mag at this
    omega
  have := (magOf_le_magOf hx.2 (by decide : (0 : Nat) < F32.infLow)).1 h1
  omega

/-- A clamp between nonnegative finite bounds lands between them, with the sign of +0.0. -/
theorem clamp_within {lo hi : F32} (x : F32) (hlo : lo.Nonneg) (hhi : hi.Nonneg)
    (h : lo.low ≤ hi.low) : F32Within lo hi (F32.clamp x lo hi) := by
  unfold F32.clamp
  split_ifs with h1 h2
  · exact ⟨hlo.1, le_refl _, h⟩
  · exact ⟨hhi.1, h, le_refl _⟩
  · have hn : x.isNaN = false := by
      cases hx : x.isNaN
      · rfl
      · simp [hx] at h1
    have hl : ¬ x.ord ≤ lo.ord := by
      intro hle
      simp [F32.le, hn, hlo.not_nan, hle] at h1
    have hg : ¬ hi.ord ≤ x.ord := by
      intro hle
      simp [F32.ge, F32.le, hn, hhi.not_nan, hle] at h2
    have hs : x.sign = false := by
      cases hx : x.sign
      · rfl
      · rw [hlo.ord_eq] at hl
        simp only [F32.ord, hx, if_true] at hl
        omega
    rw [hlo.ord_eq] at hl
    rw [hhi.ord_eq] at hg
    simp only [F32.ord, hs] at hl hg
    exact ⟨hs, by simp at hl; omega, by simp at hg; omega⟩

/-- `x + y` of nonnegative finite values: the exact sum, rounded once. -/
theorem add_nonneg_spec {x y : F32} (hx : x.Nonneg) (hy : y.Nonneg) :
    (F32.add x y).sign = false ∧ (F32.add x y).low = roundMag (x.mag + y.mag) 1 := by
  have h : F32.add x y = F32.addFinite x y := by
    simp [F32.add, hx.not_nan, hy.not_nan, hx.not_inf, hy.not_inf]
  rw [h, F32.addFinite, hx.val_eq, hy.val_eq]
  rcases hk : x.mag + y.mag with _ | k
  · have : (x.mag : Int) + (y.mag : Int) = Int.ofNat 0 := by
      rw [← Int.natCast_add, hk]; rfl
    rw [this]
    simp [hx.1, hy.1]
    decide
  · have : (x.mag : Int) + (y.mag : Int) = Int.ofNat (k + 1) := by
      rw [← Int.natCast_add, hk]; rfl
    rw [this]
    exact ⟨sign_roundSigned _ _ _, low_roundSigned _ _ _⟩

/-- `x - y` of nonnegative finite values with `y` at most `x`. -/
theorem sub_nonneg_spec {x y : F32} (hx : x.Nonneg) (hy : y.Nonneg) (h : y.low ≤ x.low) :
    (F32.sub x y).sign = false ∧ (F32.sub x y).low = roundMag (x.mag - y.mag) 1 := by
  have hl : y.neg.low = y.low := low_ofLow _ (low_lt y)
  have hs : y.neg.sign = true := by
    rw [F32.neg, sign_ofLow _ (low_lt y), hy.1]; rfl
  have hn : y.neg.isNaN = false := isNaN_eq_false (by rw [hl]; exact le_of_lt hy.2)
  have hi : y.neg.isInf = false := isInf_eq_false (by rw [hl]; exact hy.2)
  have hv : y.neg.val = -(y.mag : Int) := by simp [F32.val, hs, F32.mag, hl]
  have hle : y.mag ≤ x.mag := (hy.mag_le_iff hx).2 h
  have he : F32.sub x y = F32.addFinite x y.neg := by
    simp [F32.sub, F32.add, hx.not_nan, hn, hx.not_inf, hi]
  rw [he, F32.addFinite, hx.val_eq, hv]
  rcases hk : x.mag - y.mag with _ | k
  · have : (x.mag : Int) + -(y.mag : Int) = Int.ofNat 0 := by
      simp; omega
    rw [this]
    simp [hx.1]
    decide
  · have : (x.mag : Int) + -(y.mag : Int) = Int.ofNat (k + 1) := by
      simp; omega
    rw [this]
    exact ⟨sign_roundSigned _ _ _, low_roundSigned _ _ _⟩

/-- `x · y` of nonnegative finite values. -/
theorem mul_nonneg_spec {x y : F32} (hx : x.Nonneg) (hy : y.Nonneg) :
    (F32.mul x y).sign = false ∧ (F32.mul x y).low = roundMag (x.mag * y.mag) (2 ^ 149) := by
  have h : F32.mul x y = roundSigned false (x.mag * y.mag) (2 ^ 149) := by
    simp [F32.mul, hx.not_nan, hy.not_nan, hx.not_inf, hy.not_inf, hx.1, hy.1]
  rw [h]
  exact ⟨sign_roundSigned _ _ _, low_roundSigned _ _ _⟩

/-- `x / y` of nonnegative finite values, `y` not zero. -/
theorem div_nonneg_spec {x y : F32} (hx : x.Nonneg) (hy : y.Nonneg) (h0 : 0 < y.low) :
    (F32.div x y).sign = false ∧ (F32.div x y).low = roundMag (x.mag * 2 ^ 149) y.mag := by
  have hne : (y.low == 0) = false := by simp; omega
  have h : F32.div x y = roundSigned false (x.mag * 2 ^ 149) y.mag := by
    simp [F32.div, hx.not_nan, hy.not_nan, hx.not_inf, hy.not_inf, hx.1, hy.1, hne]
  rw [h]
  exact ⟨sign_roundSigned _ _ _, low_roundSigned _ _ _⟩

/-! ### NaN operands: every operation passes a NaN on as the one NaN of R8 -/

theorem isNaN_qNaN : F32.qNaN.isNaN = true := by decide

theorem isNaN_neg (x : F32) : x.neg.isNaN = x.isNaN := by
  simp [F32.isNaN, F32.neg, low_ofLow _ (low_lt x)]

theorem add_of_isNaN {x y : F32} (h : x.isNaN = true ∨ y.isNaN = true) :
    F32.add x y = F32.qNaN := by
  simp [F32.add, h]

theorem sub_of_isNaN {x y : F32} (h : x.isNaN = true ∨ y.isNaN = true) :
    F32.sub x y = F32.qNaN :=
  add_of_isNaN (by rwa [isNaN_neg])

theorem mul_of_isNaN {x y : F32} (h : x.isNaN = true ∨ y.isNaN = true) :
    F32.mul x y = F32.qNaN := by
  simp [F32.mul, h]

end Sys2Proof
end

