-- ==== Sys2Proof/Laws/Decode.lean ====
section
/-! SUPPORT. The fields of an encoded CMD word read back, and a record survives its serialization. -/

namespace Sys2Proof

section Fields

variable {unit op imm : Nat} {n : InstNo}

theorem cmdWord_toNat (hu : unit < 16) (ho : op < 16) (hi : imm < 2 ^ 16) :
    (cmdWord unit op n imm).toNat = unit * 2 ^ 28 + op * 2 ^ 24 + n.toNat * 2 ^ 16 + imm := by
  have hn := n.isLt
  simp only [cmdWord, BitVec.toNat_ofNat]
  omega

theorem unitField_cmdWord (hu : unit < 16) (ho : op < 16) (hi : imm < 2 ^ 16) :
    unitField (cmdWord unit op n imm) = unit := by
  have hn := n.isLt
  rw [unitField, cmdWord_toNat hu ho hi]
  omega

theorem opField_cmdWord (hu : unit < 16) (ho : op < 16) (hi : imm < 2 ^ 16) :
    opField (cmdWord unit op n imm) = op := by
  have hn := n.isLt
  rw [opField, cmdWord_toNat hu ho hi]
  omega

theorem instField_cmdWord (hu : unit < 16) (ho : op < 16) (hi : imm < 2 ^ 16) :
    instField (cmdWord unit op n imm) = n := by
  have hn := n.isLt
  apply BitVec.eq_of_toNat_eq
  rw [instField, cmdWord_toNat hu ho hi, BitVec.toNat_ofNat]
  omega

theorem immField_cmdWord (hu : unit < 16) (ho : op < 16) (hi : imm < 2 ^ 16) :
    immField (cmdWord unit op n imm) = imm := by
  have hn := n.isLt
  rw [immField, cmdWord_toNat hu ho hi]
  omega

/-- Every word is the CMD word of its own fields. -/
theorem cmdWord_fields (w : Word) :
    cmdWord (unitField w) (opField w) (instField w) (immField w) = w := by
  apply BitVec.eq_of_toNat_eq
  have hw := w.isLt
  simp only [cmdWord, unitField, opField, instField, immField, BitVec.toNat_ofNat]
  omega

end Fields

theorem wordOfBytes_bytes (w : Word) :
    wordOfBytes (byteOfWord w 0) (byteOfWord w 1) (byteOfWord w 2) (byteOfWord w 3) = w := by
  apply BitVec.eq_of_toNat_eq
  have hw := w.isLt
  simp only [wordOfBytes, byteOfWord, BitVec.toNat_ofNat]
  omega

/-- A record is read back from its bytes, whatever follows it in the stream. -/
theorem ofBytes_toBytes (c : Command) (rest : List Byte) :
    Command.ofBytes (c.toBytes ++ rest) = some (c, rest) := by
  simp [Command.toBytes, bytesOfWord, Command.ofBytes, wordOfBytes_bytes]

end Sys2Proof
end

