-- ==== Sys2Proof/Laws/Enclosure.lean ====
section
/-! SUPPORT. What the enclosure machinery can answer: a settled pattern is a lower bound's, equal to
the upper bound's at every precision but the last; and the integer square root is the root. -/

namespace Sys2Proof

/-- The settled pattern is the rounded lower bound at one of the precisions. -/
theorem settle_cases (enc : Nat → Enclosure) (p : Nat) (rest : List Nat) :
    ∃ q ∈ p :: rest, settle enc p rest = (enc q).lo.round := by
  induction rest generalizing p with
  | nil => exact ⟨p, by simp, rfl⟩
  | cons next rest ih =>
    by_cases h : (enc p).lo.round = (enc p).hi.round
    · exact ⟨p, by simp, by simp [settle, h]⟩
    · obtain ⟨q, hq, he⟩ := ih next
      exact ⟨q, List.mem_cons_of_mem p hq, by simp [settle, h, he]⟩

theorem settleAll_cases (enc : Nat → Enclosure) :
    ∃ q ∈ [96, 192, 384], settleAll enc = (enc q).lo.round := settle_cases enc 96 [192, 384]

/-- What holds of the rounded lower bound at every precision tried holds of the settled pattern. -/
theorem settleAll_of_forall {enc : Nat → Enclosure} {P : Nat → Prop}
    (h : ∀ q ∈ [96, 192, 384], P (enc q).lo.round) : P (settleAll enc) := by
  obtain ⟨q, hq, he⟩ := settleAll_cases enc
  rw [he]
  exact h q hq

theorem settleAll_lt (enc : Nat → Enclosure) : settleAll enc < 2 ^ 31 :=
  settleAll_of_forall (P := fun l => l < 2 ^ 31) fun _ _ => roundMag_lt _ _

/-! ### The integer square root -/

/-- One Newton step from an estimate above the root `s` stays at or above it and halves the
excess. -/
theorem newton_step {n s est : Nat} (hlo : s * s ≤ n) (hhi : n < (s + 1) * (s + 1))
    (h : s < est) : s ≤ (est + n / est) / 2 ∧ (est + n / est) / 2 - s ≤ (est - s) / 2 := by
  have hpos : 0 < est := by omega
  constructor
  · have h1 : 2 * s ≤ est + n / est := by
      by_contra hlt
      have h2 : n / est < 2 * s - est := by omega
      have h3 : n < (2 * s - est) * est := (Nat.div_lt_iff_lt_mul hpos).1 h2
      obtain ⟨d, hd⟩ : ∃ d, est = s + d := ⟨est - s, by omega⟩
      subst hd
      have h4 : 2 * s - (s + d) = s - d := by omega
      rw [h4] at h3
      have hds : d ≤ s := by
        by_contra hgt
        rw [Nat.sub_eq_zero_of_le (by omega), Nat.zero_mul] at h3
        omega
      obtain ⟨c, hc⟩ : ∃ c, s = d + c := ⟨s - d, by omega⟩
      subst hc
      simp at h3
      nlinarith
    omega
  · have h1 : n / est ≤ s := by
      have h2 : n / est < s + 1 := by
        rw [Nat.div_lt_iff_lt_mul hpos]
        nlinarith
      omega
    omega

theorem isqrtFrom_eq {n s : Nat} (hlo : s * s ≤ n) (hhi : n < (s + 1) * (s + 1)) (hs : 0 < s) :
    ∀ fuel est, s ≤ est → est - s < 2 ^ fuel → isqrtFrom n fuel est = s := by
  intro fuel
  induction fuel with
  | zero => intro est h1 h2; simp at h2; simp only [isqrtFrom]; omega
  | succ fuel ih =>
    intro est h1 h2
    rcases Nat.eq_or_lt_of_le h1 with rfl | hlt
    · have h3 : s ≤ n / s := (Nat.le_div_iff_mul_le hs).2 hlo
      have h4 : s ≤ (s + n / s) / 2 := by omega
      unfold isqrtFrom
      split
      · omega
      · rename_i next hn
        rw [if_neg (by omega)]
    · obtain ⟨h3, h4⟩ := newton_step hlo hhi hlt
      unfold isqrtFrom
      split
      · omega
      · rename_i next hn
        rw [hn] at h3 h4
        rw [if_pos (by omega)]
        apply ih _ h3
        rw [pow_succ] at h2
        omega

/-- `isqrt n` is the greatest `s` with `s * s ≤ n`. -/
theorem isqrt_eq_sqrt (n : Nat) : isqrt n = Nat.sqrt n := by
  have hlo := Nat.sqrt_le n
  have hhi := Nat.lt_succ_sqrt n
  by_cases h0 : n = 0
  · subst h0; decide
  have hs : 0 < Nat.sqrt n := Nat.sqrt_pos.2 (by omega)
  generalize Nat.sqrt n = s at *
  unfold isqrt
  have hn : n < 2 ^ (n.log2 + 1) := Nat.lt_log2_self
  generalize n.log2 = l at *
  have hest : s < 2 ^ (l / 2 + 1) := by
    by_contra hge
    have h1 : 2 ^ (l / 2 + 1) * 2 ^ (l / 2 + 1) ≤ s * s := Nat.mul_le_mul (by omega) (by omega)
    rw [← pow_add] at h1
    have h2 : 2 ^ (l + 1) ≤ 2 ^ (l / 2 + 1 + (l / 2 + 1)) :=
      Nat.pow_le_pow_right (by decide) (by omega)
    omega
  apply isqrtFrom_eq hlo (by simpa using hhi) hs _ _ (by omega)
  have h2 : 2 ^ (l / 2 + 1) ≤ 2 ^ (l + 2) := Nat.pow_le_pow_right (by decide) (by omega)
  omega

end Sys2Proof
end

