-- ==== Sys2Proof/Laws/State.lean ====
section
/-! SUPPORT. One lemma per field per state operation, so that no proof unfolds a record update. -/

namespace Sys2Proof.Machine

@[simp] theorem setIllegal_env (s : State) :
    (setIllegal s).env = s.env := rfl

@[simp] theorem setIllegal_osc (s : State) :
    (setIllegal s).osc = s.osc := rfl

@[simp] theorem setIllegal_flt (s : State) :
    (setIllegal s).flt = s.flt := rfl

@[simp] theorem setIllegal_tab (s : State) :
    (setIllegal s).tab = s.tab := rfl

@[simp] theorem setIllegal_status (s : State) :
    (setIllegal s).status = statusSetIllegal s.status := rfl

@[simp] theorem setIllegal_resp0 (s : State) :
    (setIllegal s).resp0 = s.resp0 := rfl

@[simp] theorem setIllegal_resp1 (s : State) :
    (setIllegal s).resp1 = s.resp1 := rfl

@[simp] theorem setIllegal_port (s : State) :
    (setIllegal s).port = s.port := rfl

@[simp] theorem setEnv_env (s : State) (n : InstNo) (e : EnvUnit) :
    (setEnv s n e).env = s.env.setIfInBounds n.toNat e := rfl

@[simp] theorem setEnv_osc (s : State) (n : InstNo) (e : EnvUnit) :
    (setEnv s n e).osc = s.osc := rfl

@[simp] theorem setEnv_flt (s : State) (n : InstNo) (e : EnvUnit) :
    (setEnv s n e).flt = s.flt := rfl

@[simp] theorem setEnv_tab (s : State) (n : InstNo) (e : EnvUnit) :
    (setEnv s n e).tab = s.tab := rfl

@[simp] theorem setEnv_status (s : State) (n : InstNo) (e : EnvUnit) :
    (setEnv s n e).status = s.status := rfl

@[simp] theorem setEnv_resp0 (s : State) (n : InstNo) (e : EnvUnit) :
    (setEnv s n e).resp0 = s.resp0 := rfl

@[simp] theorem setEnv_resp1 (s : State) (n : InstNo) (e : EnvUnit) :
    (setEnv s n e).resp1 = s.resp1 := rfl

@[simp] theorem setEnv_port (s : State) (n : InstNo) (e : EnvUnit) :
    (setEnv s n e).port = s.port := rfl

@[simp] theorem setOsc_env (s : State) (n : InstNo) (o : OscUnit) :
    (setOsc s n o).env = s.env := rfl

@[simp] theorem setOsc_osc (s : State) (n : InstNo) (o : OscUnit) :
    (setOsc s n o).osc = s.osc.setIfInBounds n.toNat o := rfl

@[simp] theorem setOsc_flt (s : State) (n : InstNo) (o : OscUnit) :
    (setOsc s n o).flt = s.flt := rfl

@[simp] theorem setOsc_tab (s : State) (n : InstNo) (o : OscUnit) :
    (setOsc s n o).tab = s.tab := rfl

@[simp] theorem setOsc_status (s : State) (n : InstNo) (o : OscUnit) :
    (setOsc s n o).status = s.status := rfl

@[simp] theorem setOsc_resp0 (s : State) (n : InstNo) (o : OscUnit) :
    (setOsc s n o).resp0 = s.resp0 := rfl

@[simp] theorem setOsc_resp1 (s : State) (n : InstNo) (o : OscUnit) :
    (setOsc s n o).resp1 = s.resp1 := rfl

@[simp] theorem setOsc_port (s : State) (n : InstNo) (o : OscUnit) :
    (setOsc s n o).port = s.port := rfl

@[simp] theorem setFlt_env (s : State) (n : InstNo) (f : FltUnit) :
    (setFlt s n f).env = s.env := rfl

@[simp] theorem setFlt_osc (s : State) (n : InstNo) (f : FltUnit) :
    (setFlt s n f).osc = s.osc := rfl

@[simp] theorem setFlt_flt (s : State) (n : InstNo) (f : FltUnit) :
    (setFlt s n f).flt = s.flt.setIfInBounds n.toNat f := rfl

@[simp] theorem setFlt_tab (s : State) (n : InstNo) (f : FltUnit) :
    (setFlt s n f).tab = s.tab := rfl

@[simp] theorem setFlt_status (s : State) (n : InstNo) (f : FltUnit) :
    (setFlt s n f).status = s.status := rfl

@[simp] theorem setFlt_resp0 (s : State) (n : InstNo) (f : FltUnit) :
    (setFlt s n f).resp0 = s.resp0 := rfl

@[simp] theorem setFlt_resp1 (s : State) (n : InstNo) (f : FltUnit) :
    (setFlt s n f).resp1 = s.resp1 := rfl

@[simp] theorem setFlt_port (s : State) (n : InstNo) (f : FltUnit) :
    (setFlt s n f).port = s.port := rfl

@[simp] theorem respond0_env (s : State) (w : Word) :
    (respond0 s w).env = s.env := rfl

@[simp] theorem respond0_osc (s : State) (w : Word) :
    (respond0 s w).osc = s.osc := rfl

@[simp] theorem respond0_flt (s : State) (w : Word) :
    (respond0 s w).flt = s.flt := rfl

@[simp] theorem respond0_tab (s : State) (w : Word) :
    (respond0 s w).tab = s.tab := rfl

@[simp] theorem respond0_status (s : State) (w : Word) :
    (respond0 s w).status = s.status := rfl

@[simp] theorem respond0_resp0 (s : State) (w : Word) :
    (respond0 s w).resp0 = w := rfl

@[simp] theorem respond0_resp1 (s : State) (w : Word) :
    (respond0 s w).resp1 = s.resp1 := rfl

@[simp] theorem respond0_port (s : State) (w : Word) :
    (respond0 s w).port = s.port := rfl

@[simp] theorem respondBoth_env (s : State) (w0 w1 : Word) :
    (respondBoth s w0 w1).env = s.env := rfl

@[simp] theorem respondBoth_osc (s : State) (w0 w1 : Word) :
    (respondBoth s w0 w1).osc = s.osc := rfl

@[simp] theorem respondBoth_flt (s : State) (w0 w1 : Word) :
    (respondBoth s w0 w1).flt = s.flt := rfl

@[simp] theorem respondBoth_tab (s : State) (w0 w1 : Word) :
    (respondBoth s w0 w1).tab = s.tab := rfl

@[simp] theorem respondBoth_status (s : State) (w0 w1 : Word) :
    (respondBoth s w0 w1).status = s.status := rfl

@[simp] theorem respondBoth_resp0 (s : State) (w0 w1 : Word) :
    (respondBoth s w0 w1).resp0 = w0 := rfl

@[simp] theorem respondBoth_resp1 (s : State) (w0 w1 : Word) :
    (respondBoth s w0 w1).resp1 = w1 := rfl

@[simp] theorem respondBoth_port (s : State) (w0 w1 : Word) :
    (respondBoth s w0 w1).port = s.port := rfl

@[simp] theorem rebuildTable_env (s : State) (sr : F32) :
    (rebuildTable s sr).env = s.env := rfl

@[simp] theorem rebuildTable_osc (s : State) (sr : F32) :
    (rebuildTable s sr).osc = s.osc := rfl

@[simp] theorem rebuildTable_flt (s : State) (sr : F32) :
    (rebuildTable s sr).flt = s.flt := rfl

@[simp] theorem rebuildTable_tab (s : State) (sr : F32) :
    (rebuildTable s sr).tab = buildTable sr := rfl

@[simp] theorem rebuildTable_status (s : State) (sr : F32) :
    (rebuildTable s sr).status = s.status := rfl

@[simp] theorem rebuildTable_resp0 (s : State) (sr : F32) :
    (rebuildTable s sr).resp0 = s.resp0 := rfl

@[simp] theorem rebuildTable_resp1 (s : State) (sr : F32) :
    (rebuildTable s sr).resp1 = s.resp1 := rfl

@[simp] theorem rebuildTable_port (s : State) (sr : F32) :
    (rebuildTable s sr).port = s.port := rfl

@[simp] theorem resetBlock_env (s : State) :
    (resetBlock s).env = State.reset.env := rfl

@[simp] theorem resetBlock_osc (s : State) :
    (resetBlock s).osc = State.reset.osc := rfl

@[simp] theorem resetBlock_flt (s : State) :
    (resetBlock s).flt = State.reset.flt := rfl

@[simp] theorem resetBlock_tab (s : State) :
    (resetBlock s).tab = State.reset.tab := rfl

@[simp] theorem resetBlock_status (s : State) :
    (resetBlock s).status = State.reset.status := rfl

@[simp] theorem resetBlock_resp0 (s : State) :
    (resetBlock s).resp0 = State.reset.resp0 := rfl

@[simp] theorem resetBlock_resp1 (s : State) :
    (resetBlock s).resp1 = State.reset.resp1 := rfl

@[simp] theorem resetBlock_port (s : State) :
    (resetBlock s).port = s.port := rfl

@[simp] theorem deliver_env (s : State) (c : Command) :
    (deliver s c).env = s.env := rfl

@[simp] theorem deliver_osc (s : State) (c : Command) :
    (deliver s c).osc = s.osc := rfl

@[simp] theorem deliver_flt (s : State) (c : Command) :
    (deliver s c).flt = s.flt := rfl

@[simp] theorem deliver_tab (s : State) (c : Command) :
    (deliver s c).tab = s.tab := rfl

@[simp] theorem deliver_status (s : State) (c : Command) :
    (deliver s c).status = s.status := rfl

@[simp] theorem deliver_resp0 (s : State) (c : Command) :
    (deliver s c).resp0 = s.resp0 := rfl

@[simp] theorem deliver_resp1 (s : State) (c : Command) :
    (deliver s c).resp1 = s.resp1 := rfl

@[simp] theorem deliver_port (s : State) (c : Command) :
    (deliver s c).port = c :: s.port := rfl

@[simp] theorem reset_status : State.reset.status = 0x00000000#32 := rfl

@[simp] theorem reset_resp0 : State.reset.resp0 = 0x00000000#32 := rfl

@[simp] theorem reset_resp1 : State.reset.resp1 = 0x00000000#32 := rfl

@[simp] theorem reset_port : State.reset.port = [] := rfl

@[simp] theorem reset_tab : State.reset.tab = buildTable Config.SR_RESET := rfl

@[simp] theorem reset_env (n : Nat) (h : n < Config.NUM_ENV) :
    State.reset.env[n] = envInitBody Config.SR_RESET := by
  simp [State.reset]

@[simp] theorem reset_osc (n : Nat) (h : n < Config.NUM_OSC) :
    State.reset.osc[n] = oscInitBody Config.SR_RESET := by
  simp [State.reset]

@[simp] theorem reset_flt (n : Nat) (h : n < Config.NUM_FLT) :
    State.reset.flt[n] = fltInitBody := by
  simp [State.reset]

@[simp] theorem tabulate_getElem {α : Type} (n : Nat) (f : Nat → α) (i : Nat) (h : i < n) :
    (tabulate n f)[i] = f i := by
  have key : ∀ (len k j : Nat) (hj : j < (tabulateFrom f len k).length),
      (tabulateFrom f len k)[j] = f (k + j) := by
    intro len
    induction len with
    | zero => intro k j hj; simp [tabulateFrom] at hj
    | succ len ih =>
      intro k j hj
      cases j with
      | zero => simp [tabulateFrom]
      | succ j =>
        simp only [tabulateFrom, List.getElem_cons_succ]
        rw [ih]
        congr 1
        omega
  simp [tabulate, key]

/-- `TAB.entry[j][i]` after `BuildTable(sr)`. -/
@[simp] theorem buildTable_entry (sr : F32) (j i : Nat) (hj : j < Config.RS) (hi : i < Config.FS) :
    ((buildTable sr).entry[j])[i] = ⟨tableG sr i, tableR j, Config.FLT_COMP i j⟩ := by
  simp [buildTable]

@[simp] theorem buildTable_sr (sr : F32) : (buildTable sr).sr = sr := rfl

@[simp] theorem tabRead_buildTable (sr : F32) (j : Fin Config.RS) (i : Fin Config.FS) :
    tabRead (buildTable sr) j i = ⟨tableG sr i, tableR j, Config.FLT_COMP i j⟩ := by
  simp [tabRead]

end Sys2Proof.Machine
end

