-- ==== Sys2Proof/Laws/Ops.lean ====
section
/-! SUPPORT. What each shared operation can do, said once: instance selection, instance writes,
taking a record, and one step. -/

namespace Sys2Proof.Machine

/-! ### Instance writes -/

/-- A written envelope reads back, and every other instance reads as before. -/
theorem setEnv_getElem (s : State) (n : InstNo) (e : EnvUnit) (m : Nat) (h : m < Config.NUM_ENV) :
    (setEnv s n e).env[m] = if n.toNat = m then e else s.env[m] := by
  simp [Vector.getElem_setIfInBounds]

theorem setOsc_getElem (s : State) (n : InstNo) (o : OscUnit) (m : Nat) (h : m < Config.NUM_OSC) :
    (setOsc s n o).osc[m] = if n.toNat = m then o else s.osc[m] := by
  simp [Vector.getElem_setIfInBounds]

theorem setFlt_getElem (s : State) (n : InstNo) (f : FltUnit) (m : Nat) (h : m < Config.NUM_FLT) :
    (setFlt s n f).flt[m] = if n.toNat = m then f else s.flt[m] := by
  simp [Vector.getElem_setIfInBounds]

/-! ### Instance selection -/

theorem withEnv_inRange {n : InstNo} {s : State} {k : EnvUnit → Result}
    (h : n.toNat < Config.NUM_ENV) : withEnv n s k = k s.env[n.toNat] := dif_pos h

theorem withOsc_inRange {n : InstNo} {s : State} {k : OscUnit → Result}
    (h : n.toNat < Config.NUM_OSC) : withOsc n s k = k s.osc[n.toNat] := dif_pos h

theorem withFlt_inRange {n : InstNo} {s : State} {k : FltUnit → Result}
    (h : n.toNat < Config.NUM_FLT) : withFlt n s k = k s.flt[n.toNat] := dif_pos h

theorem withEnv_outOfRange {n : InstNo} {s : State} {k : EnvUnit → Result}
    (h : ¬ n.toNat < Config.NUM_ENV) : withEnv n s k = .next (setIllegal s) := dif_neg h

theorem withOsc_outOfRange {n : InstNo} {s : State} {k : OscUnit → Result}
    (h : ¬ n.toNat < Config.NUM_OSC) : withOsc n s k = .next (setIllegal s) := dif_neg h

theorem withFlt_outOfRange {n : InstNo} {s : State} {k : FltUnit → Result}
    (h : ¬ n.toNat < Config.NUM_FLT) : withFlt n s k = .next (setIllegal s) := dif_neg h

/-- Everything an envelope command can do: run on its instance, or execute `set_illegal()`. -/
theorem withEnv_cases {n : InstNo} {s : State} {k : EnvUnit → Result} {r : Result}
    (h : withEnv n s k = r) :
    (∃ hn : n.toNat < Config.NUM_ENV, k s.env[n.toNat] = r) ∨
      (¬ n.toNat < Config.NUM_ENV ∧ r = .next (setIllegal s)) := by
  by_cases hn : n.toNat < Config.NUM_ENV
  · exact .inl ⟨hn, by rw [← h, withEnv_inRange hn]⟩
  · exact .inr ⟨hn, by rw [← h, withEnv_outOfRange hn]⟩

theorem withOsc_cases {n : InstNo} {s : State} {k : OscUnit → Result} {r : Result}
    (h : withOsc n s k = r) :
    (∃ hn : n.toNat < Config.NUM_OSC, k s.osc[n.toNat] = r) ∨
      (¬ n.toNat < Config.NUM_OSC ∧ r = .next (setIllegal s)) := by
  by_cases hn : n.toNat < Config.NUM_OSC
  · exact .inl ⟨hn, by rw [← h, withOsc_inRange hn]⟩
  · exact .inr ⟨hn, by rw [← h, withOsc_outOfRange hn]⟩

theorem withFlt_cases {n : InstNo} {s : State} {k : FltUnit → Result} {r : Result}
    (h : withFlt n s k = r) :
    (∃ hn : n.toNat < Config.NUM_FLT, k s.flt[n.toNat] = r) ∨
      (¬ n.toNat < Config.NUM_FLT ∧ r = .next (setIllegal s)) := by
  by_cases hn : n.toNat < Config.NUM_FLT
  · exact .inl ⟨hn, by rw [← h, withFlt_inRange hn]⟩
  · exact .inr ⟨hn, by rw [← h, withFlt_outOfRange hn]⟩

/-! ### The port and one step -/

theorem takeCommand_cons {s : State} {c : Command} {rest : List Command} (h : s.port = c :: rest) :
    takeCommand s = some (c, { s with port := rest }) := by
  simp [takeCommand, h]

theorem takeCommand_nil {s : State} (h : s.port = []) : takeCommand s = none := by
  simp [takeCommand, h]

/-- Everything a step can do: idle, run the meaning of a legal record, or execute
`set_illegal()`. -/
theorem step_cases (s : State) :
    (s.port = [] ∧ step s = .next s) ∨
      ∃ c rest, s.port = c :: rest ∧
        ((∃ i, decode c = .ok i ∧ step s = exec i { s with port := rest }) ∨
          ∃ e, decode c = .error e ∧ step s = .next (setIllegal { s with port := rest })) := by
  cases hp : s.port with
  | nil => exact .inl ⟨rfl, by simp [step, takeCommand_nil hp]⟩
  | cons c rest =>
    refine .inr ⟨c, rest, rfl, ?_⟩
    cases hd : decode c with
    | ok i => exact .inl ⟨i, rfl, by simp [step, takeCommand_cons hp, runCommand, hd]⟩
    | error e => exact .inr ⟨e, rfl, by simp [step, takeCommand_cons hp, runCommand, hd]⟩

end Sys2Proof.Machine
end

