-- ==== Sys2Proof/Laws/PerInstr.lean ====
section
/-! SUPPORT. One statement made for every command: its record, as the encoder writes it, has a CMD
word that 30_encoding.md R84 calls legal, by the opcode map of R86. -/

namespace Sys2Proof

open Sys2Proof.Machine

/-- A CMD word is legal when its parts are those of a row of the opcode map. -/
theorem legalWord_cmdWord {unit op imm : Nat} {form : ImmForm} {n : InstNo}
    (hrow : (unit, op, form) ∈ assignedOps) (hu : unit < 16) (ho : op < 16) (hi : imm < 2 ^ 16)
    (hn : n.toNat < unitCount unit) (hf : form.holds imm) : LegalWord (cmdWord unit op n imm) := by
  have hlt := n.isLt
  refine ⟨_, hrow, ?_⟩
  rw [cmdWord_toNat hu ho hi]
  refine ⟨?_, ?_, ?_, ?_⟩
  · change unit = _
    omega
  · change op = _
    omega
  · change _ < unitCount unit
    omega
  · change form.holds _
    convert hf using 1
    omega

/-- The same for a form `Z` word, whose IMM is 0. -/
theorem legalWord_formZ {unit op : Nat} {n : InstNo} (hrow : (unit, op, ImmForm.z) ∈ assignedOps)
    (hu : unit < 16) (ho : op < 16) (hn : n.toNat < unitCount unit) :
    LegalWord (cmdWord unit op n 0) :=
  legalWord_cmdWord hrow hu ho (by decide) hn rfl

namespace Laws.EncodesLegalWord

/-- A well-formed command's CMD word is legal. -/
def Statement (i : Instr) : Prop := i.wellFormed = true → LegalWord (encode i).cmd

theorem sysNop : Statement .sysNop := fun _ =>
  legalWord_formZ (by decide) (by decide) (by decide) (by decide)

theorem sysRdStatus : Statement .sysRdStatus := fun _ =>
  legalWord_formZ (by decide) (by decide) (by decide) (by decide)

theorem sysClrStatus : Statement .sysClrStatus := fun _ =>
  legalWord_formZ (by decide) (by decide) (by decide) (by decide)

theorem sysReset : Statement .sysReset := fun _ =>
  legalWord_formZ (by decide) (by decide) (by decide) (by decide)

theorem envInit (n : InstNo) (sampleRate : F32) : Statement (.envInit n sampleRate) := fun h =>
  legalWord_formZ (by decide) (by decide) (by decide) (of_decide_eq_true h)

theorem envSetAttack (n : InstNo) (seconds : F32) : Statement (.envSetAttack n seconds) := fun h =>
  legalWord_formZ (by decide) (by decide) (by decide) (of_decide_eq_true h)

theorem envAddAttack (n : InstNo) (seconds : F32) : Statement (.envAddAttack n seconds) := fun h =>
  legalWord_formZ (by decide) (by decide) (by decide) (of_decide_eq_true h)

theorem envSetDecay (n : InstNo) (seconds : F32) : Statement (.envSetDecay n seconds) := fun h =>
  legalWord_formZ (by decide) (by decide) (by decide) (of_decide_eq_true h)

theorem envAddDecay (n : InstNo) (seconds : F32) : Statement (.envAddDecay n seconds) := fun h =>
  legalWord_formZ (by decide) (by decide) (by decide) (of_decide_eq_true h)

theorem envSetScale (n : InstNo) (amount : F32) : Statement (.envSetScale n amount) := fun h =>
  legalWord_formZ (by decide) (by decide) (by decide) (of_decide_eq_true h)

theorem envSetCurve (n : InstNo) (exponent : F32) : Statement (.envSetCurve n exponent) := fun h =>
  legalWord_formZ (by decide) (by decide) (by decide) (of_decide_eq_true h)

theorem envTrigger (n : InstNo) : Statement (.envTrigger n) := fun h =>
  legalWord_formZ (by decide) (by decide) (by decide) (of_decide_eq_true h)

theorem envRelease (n : InstNo) : Statement (.envRelease n) := fun h =>
  legalWord_formZ (by decide) (by decide) (by decide) (of_decide_eq_true h)

theorem envProcess (n : InstNo) : Statement (.envProcess n) := fun h =>
  legalWord_formZ (by decide) (by decide) (by decide) (of_decide_eq_true h)

theorem envGetLast (n : InstNo) : Statement (.envGetLast n) := fun h =>
  legalWord_formZ (by decide) (by decide) (by decide) (of_decide_eq_true h)

theorem envGetStage (n : InstNo) : Statement (.envGetStage n) := fun h =>
  legalWord_formZ (by decide) (by decide) (by decide) (of_decide_eq_true h)

theorem oscInit (n : InstNo) (sampleRate : F32) : Statement (.oscInit n sampleRate) := fun h =>
  legalWord_formZ (by decide) (by decide) (by decide) (of_decide_eq_true h)

theorem oscSetNote (n : InstNo) (note : BitVec 7) : Statement (.oscSetNote n note) := fun h =>
  legalWord_cmdWord (form := .note7) (by decide) (by decide) (by decide)
    (Nat.lt_trans note.isLt (by decide)) (of_decide_eq_true h) note.isLt

theorem oscSetFreq (n : InstNo) (hz : F32) : Statement (.oscSetFreq n hz) := fun h =>
  legalWord_formZ (by decide) (by decide) (by decide) (of_decide_eq_true h)

theorem oscSetAmp (n : InstNo) (amount : F32) : Statement (.oscSetAmp n amount) := fun h =>
  legalWord_formZ (by decide) (by decide) (by decide) (of_decide_eq_true h)

theorem oscSetDetune (n : InstNo) (amount : F32) : Statement (.oscSetDetune n amount) := fun h =>
  legalWord_formZ (by decide) (by decide) (by decide) (of_decide_eq_true h)

theorem oscProcess (n : InstNo) : Statement (.oscProcess n) := fun h =>
  legalWord_formZ (by decide) (by decide) (by decide) (of_decide_eq_true h)

theorem oscSetMode (n : InstNo) (mode : OscMode) : Statement (.oscSetMode n mode) := fun h =>
  legalWord_cmdWord (form := .mode2) (by decide) (by decide) (by decide) (by cases mode <;> decide)
    (of_decide_eq_true h) (by cases mode <;> simp [ImmForm.holds, OscMode.code])

theorem fltInit (n : InstNo) (sampleRate : F32) : Statement (.fltInit n sampleRate) := fun h =>
  legalWord_formZ (by decide) (by decide) (by decide) (of_decide_eq_true h)

theorem fltSetFreq (n : InstNo) (position : F32) : Statement (.fltSetFreq n position) := fun h =>
  legalWord_formZ (by decide) (by decide) (by decide) (of_decide_eq_true h)

theorem fltAddFreq (n : InstNo) (position : F32) : Statement (.fltAddFreq n position) := fun h =>
  legalWord_formZ (by decide) (by decide) (by decide) (of_decide_eq_true h)

theorem fltSetQ (n : InstNo) (position : F32) : Statement (.fltSetQ n position) := fun h =>
  legalWord_formZ (by decide) (by decide) (by decide) (of_decide_eq_true h)

theorem fltGetFreq (n : InstNo) : Statement (.fltGetFreq n) := fun h =>
  legalWord_formZ (by decide) (by decide) (by decide) (of_decide_eq_true h)

theorem fltGetQ (n : InstNo) : Statement (.fltGetQ n) := fun h =>
  legalWord_formZ (by decide) (by decide) (by decide) (of_decide_eq_true h)

theorem fltProcess (n : InstNo) (sample : F32) : Statement (.fltProcess n sample) := fun h =>
  legalWord_formZ (by decide) (by decide) (by decide) (of_decide_eq_true h)

theorem fltSetLookup (n : InstNo) (mode : Lookup) : Statement (.fltSetLookup n mode) := fun h =>
  legalWord_cmdWord (form := .bit1) (by decide) (by decide) (by decide) (by cases mode <;> decide)
    (of_decide_eq_true h) (by cases mode <;> simp [ImmForm.holds, Lookup.code])

end Laws.EncodesLegalWord

end Sys2Proof
end

