-- ==== Sys2Proof/Laws/Pseudo.lean ====
section
/-! SUPPORT. How a sequence of commands goes on, so that a proof about `frame` or `execAll` need
not unfold `andThen`. -/

namespace Sys2Proof.Machine

/-- After a next state the sequence goes on from it. -/
@[simp] theorem andThen_next {α : Type} (s : State) (k : State → Host.Outcome α Fault Refusal) :
    andThen (.next s) k = k s := rfl

/-- A sequence continues past a command whose answer is known. -/
theorem andThen_of_next {α : Type} {r : Result} {s : State}
    {k : State → Host.Outcome α Fault Refusal} (h : r = .next s) : andThen r k = k s := by
  rw [h, andThen_next]

end Sys2Proof.Machine
end

