-- ==== Sys2Proof/Machine/Assembler.lean ====
section
/-! DEFINITION. The assembler syntax of 30_encoding.md R90: one line of text to the command it
writes. A line is a list of characters. The assembler is the host's tool, so nothing of the block
depends on this file (assumption log 16). -/

namespace Sys2Proof

/-! ### Characters and numbers -/

def isBlank (c : Char) : Bool := c == ' ' || c == '\t'

/-- The characters without blanks at either end. -/
def trimBlanks (cs : List Char) : List Char :=
  ((cs.dropWhile isBlank).reverse.dropWhile isBlank).reverse

/-- What stands before the first `sep`, and what stands after it. -/
def splitAt (sep : Char) : List Char → List Char × Option (List Char)
  | [] => ([], none)
  | c :: cs =>
    if c == sep then ([], some cs)
    else
      match splitAt sep cs with
      | (a, b) => (c :: a, b)

/-- The value of a digit in a base up to 16. -/
def digitValue (c : Char) : Option Nat :=
  if '0' ≤ c ∧ c ≤ '9' then some (c.toNat - '0'.toNat)
  else if 'a' ≤ c ∧ c ≤ 'f' then some (c.toNat - 'a'.toNat + 10)
  else if 'A' ≤ c ∧ c ≤ 'F' then some (c.toNat - 'A'.toNat + 10)
  else none

/-- Digits of a base, read onto a number. -/
def digitsOnto (base : Nat) : Nat → List Char → Option Nat
  | acc, [] => some acc
  | acc, c :: cs =>
    match digitValue c with
    | none => none
    | some d => if d < base then digitsOnto base (acc * base + d) cs else none

/-- A decimal integer of at least one digit. -/
def decimalInt : List Char → Option Nat
  | [] => none
  | c :: cs => digitsOnto 10 0 (c :: cs)

/-- A nonnegative decimal literal, `digits` or `digits.digits`, rounded to binary32. -/
def decimalMagnitude (cs : List Char) : Option Nat :=
  match splitAt '.' cs with
  | (whole, none) =>
    match decimalInt whole with
    | none => none
    | some a => some (roundMag (a * 2 ^ 149) 1)
  | (whole, some fraction) =>
    match decimalInt whole, decimalInt fraction with
    | some a, some b =>
      some (roundMag ((a * 10 ^ fraction.length + b) * 2 ^ 149) (10 ^ fraction.length))
    | _, _ => none

/-- `float`: a decimal literal with an optional minus sign, "nan", "inf" or "-inf". -/
def floatOperand (cs : List Char) : Option F32 :=
  if cs = ['n', 'a', 'n'] then some F32.qNaN
  else if cs = ['i', 'n', 'f'] then some (F32.inf false)
  else if cs = ['-', 'i', 'n', 'f'] then some (F32.inf true)
  else
    match cs with
    | '-' :: rest => (decimalMagnitude rest).map (F32.ofLow true)
    | _ => (decimalMagnitude cs).map (F32.ofLow false)

/-- `hex8`: "0x" and exactly eight hex digits, the raw DATA pattern. -/
def hexOperand : List Char → Option F32
  | '0' :: 'x' :: ds =>
    if ds.length = 8 then (digitsOnto 16 0 ds).map fun v => ⟨BitVec.ofNat 32 v⟩ else none
  | _ => none

/-- The operand of an operation of form F. -/
def dataOperand (cs : List Char) : Option F32 :=
  match hexOperand cs with
  | some d => some d
  | none => floatOperand cs

/-- `note`: a decimal integer from 0 to 127. -/
def noteOperand (cs : List Char) : Option (BitVec 7) :=
  match decimalInt cs with
  | some k => if k < 128 then some (BitVec.ofNat 7 k) else none
  | none => none

/-- `modename`. -/
def modeOperand (cs : List Char) : Option OscMode :=
  if cs = ['u', 'n', 'i', 's', 'o', 'n'] ∨ cs = ['0'] then some .unison
  else if cs = ['s', 'a', 'w'] ∨ cs = ['1'] then some .saw1
  else if cs = ['s', 'i', 'n', 'e'] ∨ cs = ['2'] then some .sine
  else none

/-- `lookupname`. -/
def lookupOperand (cs : List Char) : Option Lookup :=
  if cs = ['n', 'e', 'a', 'r', 'e', 's', 't'] ∨ cs = ['0'] then some .nearest
  else if cs = ['b', 'i', 'l', 'i', 'n', 'e', 'a', 'r'] ∨ cs = ['1'] then some .bilinear
  else none

/-! ### Commands -/

/-- `inst`: the unit's letter and a decimal number that fits the INST field. -/
def instOperand (letter : Char) : List Char → Option InstNo
  | c :: ds =>
    if c == letter then
      match decimalInt ds with
      | some k => if k < 256 then some (BitVec.ofNat 8 k) else none
      | none => none
    else none
  | [] => none

/-- An operation whose DATA has form X takes no operand. -/
def noOperand (i : Instr) : Option (List Char) → Option Instr
  | none => some i
  | some _ => none

/-- An operation that takes exactly one operand. -/
def oneOperand {α : Type} (read : List Char → Option α) (f : α → Instr) :
    Option (List Char) → Option Instr
  | none => none
  | some cs => (read cs).map f

/-- The SYS operations, which take no instance. -/
def asmSys (name : String) (inst : List Char) (op : Option (List Char)) : Option Instr :=
  if inst ≠ [] then none
  else if name = "NOP" then noOperand .sysNop op
  else if name = "RDSTATUS" then noOperand .sysRdStatus op
  else if name = "CLRSTATUS" then noOperand .sysClrStatus op
  else if name = "RESET" then noOperand .sysReset op
  else none

/-- The ENV operations. -/
def asmEnv (name : String) (n : InstNo) (op : Option (List Char)) : Option Instr :=
  if name = "INIT" then oneOperand dataOperand (.envInit n) op
  else if name = "SETATTACK" then oneOperand dataOperand (.envSetAttack n) op
  else if name = "ADDATTACK" then oneOperand dataOperand (.envAddAttack n) op
  else if name = "SETDECAY" then oneOperand dataOperand (.envSetDecay n) op
  else if name = "ADDDECAY" then oneOperand dataOperand (.envAddDecay n) op
  else if name = "SETSCALE" then oneOperand dataOperand (.envSetScale n) op
  else if name = "SETCURVE" then oneOperand dataOperand (.envSetCurve n) op
  else if name = "TRIGGER" then noOperand (.envTrigger n) op
  else if name = "RELEASE" then noOperand (.envRelease n) op
  else if name = "PROCESS" then noOperand (.envProcess n) op
  else if name = "GETLAST" then noOperand (.envGetLast n) op
  else if name = "GETSTAGE" then noOperand (.envGetStage n) op
  else none

/-- The OSC operations. -/
def asmOsc (name : String) (n : InstNo) (op : Option (List Char)) : Option Instr :=
  if name = "INIT" then oneOperand dataOperand (.oscInit n) op
  else if name = "SETNOTE" then oneOperand noteOperand (.oscSetNote n) op
  else if name = "SETFREQ" then oneOperand dataOperand (.oscSetFreq n) op
  else if name = "SETAMP" then oneOperand dataOperand (.oscSetAmp n) op
  else if name = "SETDETUNE" then oneOperand dataOperand (.oscSetDetune n) op
  else if name = "PROCESS" then noOperand (.oscProcess n) op
  else if name = "SETMODE" then oneOperand modeOperand (.oscSetMode n) op
  else none

/-- The FLT operations. -/
def asmFlt (name : String) (n : InstNo) (op : Option (List Char)) : Option Instr :=
  if name = "INIT" then oneOperand dataOperand (.fltInit n) op
  else if name = "SETFREQ" then oneOperand dataOperand (.fltSetFreq n) op
  else if name = "ADDFREQ" then oneOperand dataOperand (.fltAddFreq n) op
  else if name = "SETQ" then oneOperand dataOperand (.fltSetQ n) op
  else if name = "GETFREQ" then noOperand (.fltGetFreq n) op
  else if name = "GETQ" then noOperand (.fltGetQ n) op
  else if name = "PROCESS" then oneOperand dataOperand (.fltProcess n) op
  else if name = "SETLOOKUP" then oneOperand lookupOperand (.fltSetLookup n) op
  else none

/-- The operations of a unit, with the instance letter that must match it. The unit's name is in
upper case here; the text may use either case. -/
def asmOperation (unit name : String) (inst : List Char) (op : Option (List Char)) :
    Option Instr :=
  if unit = "SYS" then asmSys name inst op
  else if unit = "ENV" then (instOperand 'e' inst).bind fun n => asmEnv name n op
  else if unit = "OSC" then (instOperand 'o' inst).bind fun n => asmOsc name n op
  else if unit = "FLT" then (instOperand 'f' inst).bind fun n => asmFlt name n op
  else none

/-- A command: unit, dot, operation name, instance, and after a comma the operand. -/
def asmCommand (cs : List Char) : Option Instr :=
  match splitAt ',' cs with
  | (front, op) =>
    match splitAt '.' front with
    | (_, none) => none
    | (unit, some rest) =>
      match splitAt ' ' (trimBlanks rest) with
      | (name, inst) =>
        asmOperation (String.ofList (unit.map Char.toUpper)) (String.ofList name)
          (trimBlanks (inst.getD [])) (op.map trimBlanks)

/-- A line: an optional command and an optional comment after a semicolon. The outer `none` is a
line that is no line of the syntax, the inner one a line without a command. -/
def assembleLine (line : List Char) : Option (Option Command) :=
  match trimBlanks (splitAt ';' line).1 with
  | [] => some none
  | cs => (asmCommand cs).map fun i => some (encode i)

end Sys2Proof
end

