-- ==== Sys2Proof/Tests/Slice0.lean ====
section
/-! SUPPORT. Tests: ill-formed commands, decoding of words written out from 30_encoding.md R86, the
constants of 00_scope.md R13, and single commands with the results 95_test_vectors.md gives; then a
witness for the hypotheses of every statement that has some. -/

namespace Sys2Proof.Tests

open Sys2Proof Sys2Proof.Machine

-- One theorem at a time: each kernel evaluation waits in a thread of its own otherwise.
set_option Elab.async false

/-! ### Helpers -/

/-- A part of the next state, if there is one. -/
def after {α : Type} (r : Result) (f : State → α) : Option α :=
  match r with
  | .next s => some (f s)
  | .fault _ => none
  | .refused _ => none

/-- `ENV[0]` after the set-up of 95_test_vectors.md section 2.1: increment 2^-13, attack 16 samples,
decay 32 samples. -/
def benchEnv : EnvUnit where
  stage := .off
  stageTime := ⟨0x00000000#32⟩
  sampleIncrement := ⟨0x39000000#32⟩
  attackTime := ⟨0x3B000000#32⟩
  attackAdd := ⟨0x00000000#32⟩
  decayTime := ⟨0x3B800000#32⟩
  decayAdd := ⟨0x00000000#32⟩
  curveExponent := ⟨0x3F800000#32⟩
  outputScale := ⟨0x3F800000#32⟩
  lastOutput := ⟨0x00000000#32⟩

/-- `OSC[0]` in the set-up of vectors OSC-1 and OSC-2, in unison at the phase 0.125. -/
def benchOsc : OscUnit where
  sampleRate := ⟨0x46000000#32⟩
  baseFrequency := ⟨0x44800000#32⟩
  detuneAmount := ⟨0x00000000#32⟩
  amplitude := ⟨0x3F000000#32⟩
  mode := .unison
  frequency := Vector.replicate 7 ⟨0x44800000#32⟩
  phaseIncrement := Vector.replicate 7 ⟨0x3E000000#32⟩
  phase := Vector.replicate 7 ⟨0x3E000000#32⟩

/-- A filter at cutoff position 0.5, resonance +0.0, with something in its states. -/
def benchFlt : FltUnit where
  cutoffPosition := ⟨0x3F000000#32⟩
  cutoffAddition := ⟨0x00000000#32⟩
  resonancePosition := ⟨0x00000000#32⟩
  interp := .bilinear
  s1 := ⟨0x00000000#32⟩
  s2 := ⟨0x00000000#32⟩

/-- Reset with one envelope for both instances. -/
def withE (e : EnvUnit) : State := { State.reset with env := Vector.replicate 2 e }

/-- Reset with this oscillator. -/
def withO (o : OscUnit) : State := { State.reset with osc := Vector.replicate 1 o }

/-- Reset with one filter for both instances. -/
def withF (f : FltUnit) : State := { State.reset with flt := Vector.replicate 2 f }

/-! ### Well-formedness: one ill-formed term per check -/

theorem test_env_instance_refused : (Instr.envTrigger 2#8).wellFormed = false := by decide

theorem test_osc_instance_refused : (Instr.oscSetMode 1#8 .saw1).wellFormed = false := by decide

theorem test_flt_instance_refused : (Instr.fltGetQ 255#8).wellFormed = false := by decide

/-! ### Decoding, from R86's CMD base words with INST and IMM put in by hand -/

theorem test_decode_sys :
    decode ⟨0x00000000#32, 0#32⟩ = .ok .sysNop ∧
    decode ⟨0x01000000#32, 0#32⟩ = .ok .sysRdStatus ∧
    decode ⟨0x02000000#32, 0#32⟩ = .ok .sysClrStatus ∧
    decode ⟨0x03000000#32, 0xFFFFFFFF#32⟩ = .ok .sysReset := ⟨rfl, rfl, rfl, rfl⟩

theorem test_decode_env_writes :
    decode ⟨0x10000000#32, 0x46000000#32⟩ = .ok (.envInit 0 ⟨0x46000000#32⟩) ∧
    decode ⟨0x11010000#32, 0x3B000000#32⟩ = .ok (.envSetAttack 1 ⟨0x3B000000#32⟩) ∧
    decode ⟨0x12000000#32, 0x7FC00001#32⟩ = .ok (.envAddAttack 0 ⟨0x7FC00001#32⟩) ∧
    decode ⟨0x13000000#32, 0x3B800000#32⟩ = .ok (.envSetDecay 0 ⟨0x3B800000#32⟩) ∧
    decode ⟨0x14010000#32, 0x80000000#32⟩ = .ok (.envAddDecay 1 ⟨0x80000000#32⟩) ∧
    decode ⟨0x15000000#32, 0x3F000000#32⟩ = .ok (.envSetScale 0 ⟨0x3F000000#32⟩) ∧
    decode ⟨0x16000000#32, 0x40000000#32⟩ = .ok (.envSetCurve 0 ⟨0x40000000#32⟩) :=
  ⟨rfl, rfl, rfl, rfl, rfl, rfl, rfl⟩

theorem test_decode_env_events :
    decode ⟨0x17010000#32, 0#32⟩ = .ok (.envTrigger 1) ∧
    decode ⟨0x18000000#32, 1#32⟩ = .ok (.envRelease 0) ∧
    decode ⟨0x19000000#32, 0#32⟩ = .ok (.envProcess 0) ∧
    decode ⟨0x1A010000#32, 0#32⟩ = .ok (.envGetLast 1) ∧
    decode ⟨0x1B010000#32, 0#32⟩ = .ok (.envGetStage 1) := ⟨rfl, rfl, rfl, rfl, rfl⟩

theorem test_decode_osc :
    decode ⟨0x20000000#32, 0x473B8000#32⟩ = .ok (.oscInit 0 ⟨0x473B8000#32⟩) ∧
    decode ⟨0x21000045#32, 0#32⟩ = .ok (.oscSetNote 0 69) ∧
    decode ⟨0x22000000#32, 0x44800000#32⟩ = .ok (.oscSetFreq 0 ⟨0x44800000#32⟩) ∧
    decode ⟨0x23000000#32, 0x3F800000#32⟩ = .ok (.oscSetAmp 0 ⟨0x3F800000#32⟩) ∧
    decode ⟨0x24000000#32, 0x3F000000#32⟩ = .ok (.oscSetDetune 0 ⟨0x3F000000#32⟩) ∧
    decode ⟨0x25000000#32, 0#32⟩ = .ok (.oscProcess 0) ∧
    decode ⟨0x26000001#32, 0#32⟩ = .ok (.oscSetMode 0 .saw1) :=
  ⟨rfl, rfl, rfl, rfl, rfl, rfl, rfl⟩

theorem test_decode_flt :
    decode ⟨0x30010000#32, 0x473B8000#32⟩ = .ok (.fltInit 1 ⟨0x473B8000#32⟩) ∧
    decode ⟨0x31010000#32, 0x3E800000#32⟩ = .ok (.fltSetFreq 1 ⟨0x3E800000#32⟩) ∧
    decode ⟨0x32000000#32, 0xFF800000#32⟩ = .ok (.fltAddFreq 0 ⟨0xFF800000#32⟩) ∧
    decode ⟨0x33000000#32, 0x3F000000#32⟩ = .ok (.fltSetQ 0 ⟨0x3F000000#32⟩) ∧
    decode ⟨0x34000000#32, 0#32⟩ = .ok (.fltGetFreq 0) ∧
    decode ⟨0x35010000#32, 0#32⟩ = .ok (.fltGetQ 1) ∧
    decode ⟨0x36010000#32, 0x3F800000#32⟩ = .ok (.fltProcess 1 ⟨0x3F800000#32⟩) ∧
    decode ⟨0x37000000#32, 0#32⟩ = .ok (.fltSetLookup 0 .nearest) :=
  ⟨rfl, rfl, rfl, rfl, rfl, rfl, rfl, rfl⟩

/-- The illegal rows of 95_test_vectors.md section 2.4. -/
theorem test_illegal_words :
    decode ⟨0x00010000#32, 0#32⟩ = .error .instOutOfRange ∧
    decode ⟨0x04000000#32, 0#32⟩ = .error .reservedOp ∧
    decode ⟨0x10000001#32, 0#32⟩ = .error .badImmediate ∧
    decode ⟨0x20010000#32, 0#32⟩ = .error .instOutOfRange ∧
    decode ⟨0x27000000#32, 0#32⟩ = .error .reservedOp ∧
    decode ⟨0x37000002#32, 0#32⟩ = .error .badImmediate ∧
    decode ⟨0x38000000#32, 0#32⟩ = .error .reservedOp ∧
    decode ⟨0xF0000000#32, 0#32⟩ = .error .reservedUnit :=
  ⟨rfl, rfl, rfl, rfl, rfl, rfl, rfl, rfl⟩

/-- The bytes of program P1's first record. -/
theorem test_record_bytes :
    (encode (.envInit 0 ⟨0x46000000#32⟩)).toBytes =
      [0x00, 0x00, 0x00, 0x10, 0x00, 0x00, 0x00, 0x46] := by decide

theorem test_table_word : decodeTableWord 32 0x37010001 = some (.fltSetLookup 1 .bilinear) := by
  decide +kernel

/-- The first step after reset runs the word placed for it. -/
theorem test_fetch_word :
    after (step (State.reset.withFetchWord 32 0x17010000)) (·.env[1].stage) = some .attack := by
  decide +kernel

/-- An illegal word through the step: STATUS becomes 1. -/
theorem test_illegal_word_step :
    after (step (State.reset.withFetchWord 32 0x26000003)) (·.status) = some 1#32 := by
  decide +kernel

/-! ### Constants: the decimals and formulas of R5 and R13 -/

theorem test_constants_rates :
    F32.ofInt 8000 = Config.SR_MIN ∧ F32.ofInt 192000 = Config.SR_MAX ∧
    F32.ofInt 48000 = Config.SR_RESET ∧ F32.ofInt 20 = Config.FLT_MIN_FREQ ∧
    F32.ofInt 20000 = Config.FLT_TOP_FREQ ∧ F32.ofRat 45 100 = Config.FLT_NYQUIST_SHARE ∧
    F32.ofRat 1 2 = Config.FLT_MIN_Q ∧ F32.ofInt 20 = Config.FLT_MAX_Q ∧
    F32.ofInt 4 = Config.FLT_CEIL := by decide +kernel

theorem test_constants_envelope :
    F32.ofRat 1 1000 = Config.ENV_TIME_MIN ∧ F32.ofInt 5 = Config.ENV_TIME_MAX ∧
    F32.ofInt 0 = Config.ENV_ADD_MIN ∧ F32.ofInt 5 = Config.ENV_ADD_MAX ∧
    F32.ofInt 1 = Config.ENV_CURVE_MIN ∧ F32.ofInt 4 = Config.ENV_CURVE_MAX ∧
    F32.ofRat 1 10000 = Config.ENV_OFF_LEVEL ∧ F32.ofRat 1 100 = Config.ENV_ATTACK_INIT ∧
    F32.ofRat 1 10 = Config.ENV_DECAY_INIT := by decide +kernel

theorem test_constants_oscillator :
    Config.CENTS = #v[F32.ofInt 0, F32.ofInt (-3), F32.ofInt 3, F32.ofInt (-7), F32.ofInt 7,
      F32.ofInt (-12), F32.ofInt 12] ∧
    Config.PAN = #v[F32.ofInt 0, (F32.ofRat 1 3).neg, F32.ofRat 1 3, (F32.ofRat 2 3).neg,
      F32.ofRat 2 3, F32.ofInt (-1), F32.ofInt 1] ∧
    Config.NORM7 = F32.div (F32.ofInt 1) (F32.sqrt (F32.ofInt 7)) ∧
    F32.ofInt 440 = Config.A4_HZ ∧ F32.ofInt 1200 = Config.CENTS_PER_OCTAVE ∧
    F32.ofInt 12 = Config.NOTES_PER_OCTAVE := by decide +kernel

/-- π to twenty decimals rounds to `PI32`, and 2π to `TWO_PI32`. -/
theorem test_constants_pi :
    F32.ofRat 314159265358979323846 (10 ^ 20) = Config.PI32 ∧
    F32.ofRat 628318530717958647692 (10 ^ 20) = Config.TWO_PI32 ∧
    F32.ofRat 1 2 = Config.HALF ∧ F32.ofInt 1 = Config.ONE ∧ F32.ofInt 2 = Config.TWO ∧
    F32.one = Config.ONE := by decide +kernel

/-! ### SYS -/

theorem test_sysNop_keeps_status :
    after (exec .sysNop { State.reset with status := 1#32, resp0 := 5#32 })
      (fun s => (s.status, s.resp0)) = some (1#32, 5#32) := by decide +kernel

theorem test_sysRdStatus_answers :
    after (exec .sysRdStatus { State.reset with status := 1#32, resp0 := 5#32 })
      (fun s => (s.status, s.resp0)) = some (1#32, 1#32) := by decide +kernel

theorem test_sysClrStatus_clears :
    after (exec .sysClrStatus { State.reset with status := 1#32, resp0 := 5#32 })
      (fun s => (s.status, s.resp0)) = some (0#32, 5#32) := by decide +kernel

/-- Program P6's end. -/
theorem test_sysReset_restores :
    after (exec .sysReset { withE benchEnv with status := 1#32, resp0 := 5#32 })
      (fun s => (s.env[0].sampleIncrement.bits, s.status, s.resp0)) =
      some (0x37AEC33E#32, 0#32, 0#32) := by decide +kernel

/-! ### ENV -/

/-- Vector ENV-I1: 1e9 is clamped to 192000. -/
theorem test_envInit_clamps_high :
    after (exec (.envInit 0 ⟨0x4E6E6B28#32⟩) (withE benchEnv))
      (fun s => (s.env[0].sampleIncrement.bits, s.env[1].sampleIncrement.bits)) =
      some (0x36AEC33E#32, 0x39000000#32) := by decide +kernel

/-- Vector ENV-I1: NaN is clamped to 8000. -/
theorem test_envInit_clamps_nan :
    after (exec (.envInit 1 ⟨0x7FC00000#32⟩) (withE benchEnv))
      (fun s => (s.env[1].sampleIncrement.bits, s.env[1].attackTime.bits)) =
      some (0x3903126F#32, 0x3C23D70A#32) := by decide +kernel

/-- Vector ENV-C1. -/
theorem test_envSetAttack_nan :
    after (exec (.envSetAttack 0 ⟨0x7FC00000#32⟩) (withE benchEnv)) (·.env[0].attackTime.bits) =
      some 0x3A83126F#32 := by decide +kernel

theorem test_envSetAttack_ten :
    after (exec (.envSetAttack 0 ⟨0x41200000#32⟩) (withE benchEnv)) (·.env[0].attackTime.bits) =
      some 0x40A00000#32 := by decide +kernel

/-- Vector ENV-C2: -0.0 stores +0.0. -/
theorem test_envAddAttack_negative_zero :
    after (exec (.envAddAttack 0 ⟨0x80000000#32⟩) (withE benchEnv)) (·.env[0].attackAdd.bits) =
      some 0x00000000#32 := by decide +kernel

theorem test_envAddAttack_kept :
    after (exec (.envAddAttack 0 ⟨0x3A000000#32⟩) (withE benchEnv))
      (fun s => (s.env[0].attackAdd.bits, s.env[0].attackTime.bits)) =
      some (0x3A000000#32, 0x3B000000#32) := by decide +kernel

/-- Vector ENV-C1. -/
theorem test_envSetDecay_small :
    after (exec (.envSetDecay 0 ⟨0x3A000000#32⟩) (withE benchEnv)) (·.env[0].decayTime.bits) =
      some 0x3A83126F#32 := by decide +kernel

theorem test_envSetDecay_infinite :
    after (exec (.envSetDecay 0 ⟨0x7F800000#32⟩) (withE benchEnv)) (·.env[0].decayTime.bits) =
      some 0x40A00000#32 := by decide +kernel

/-- Vector ENV-C2. -/
theorem test_envAddDecay_negative :
    after (exec (.envAddDecay 0 ⟨0xBF800000#32⟩) (withE benchEnv)) (·.env[0].decayAdd.bits) =
      some 0x00000000#32 := by decide +kernel

theorem test_envAddDecay_infinite :
    after (exec (.envAddDecay 0 ⟨0x7F800000#32⟩) (withE benchEnv)) (·.env[0].decayAdd.bits) =
      some 0x40A00000#32 := by decide +kernel

/-- Vector ENV-C4. -/
theorem test_envSetScale_nan :
    after (exec (.envSetScale 0 ⟨0x7FC00000#32⟩) (withE benchEnv)) (·.env[0].outputScale.bits) =
      some 0x00000000#32 := by decide +kernel

/-- Vector ENV-C3. -/
theorem test_envSetCurve_kept :
    after (exec (.envSetCurve 0 ⟨0x40200000#32⟩) (withE benchEnv))
      (·.env[0].curveExponent.bits) = some 0x40200000#32 := by decide +kernel

theorem test_envSetCurve_low :
    after (exec (.envSetCurve 0 ⟨0xFF800000#32⟩) (withE benchEnv))
      (·.env[0].curveExponent.bits) = some 0x3F800000#32 := by decide +kernel

/-- Vector ENV-RT2: the seed is 0.25 times the attack time. -/
theorem test_envTrigger_seeds :
    after (exec (.envTrigger 0) (withE { benchEnv with
      stage := .decay, lastOutput := ⟨0x3E800000#32⟩, stageTime := ⟨0x3A800000#32⟩ }))
      (fun s => (s.env[0].stage, s.env[0].stageTime.bits)) =
      some (.attack, 0x3A000000#32) := by decide +kernel

/-- Vector ENV-RT5. -/
theorem test_envTrigger_from_off :
    after (exec (.envTrigger 0) State.reset) (fun s => (s.env[0].stage, s.env[0].stageTime.bits)) =
      some (.attack, 0x00000000#32) := by decide +kernel

/-- Vector ENV-REL1. -/
theorem test_envRelease_mid_attack :
    after (exec (.envRelease 0) (withE { benchEnv with
      stage := .attack, lastOutput := ⟨0x3F000000#32⟩, stageTime := ⟨0x3A800000#32⟩ }))
      (fun s => (s.env[0].stage, s.env[0].stageTime.bits, s.env[0].lastOutput.bits)) =
      some (.decay, 0x00000000#32, 0x3F000000#32) := by decide +kernel

/-- Vector ENV-REL2. -/
theorem test_envRelease_in_decay :
    after (exec (.envRelease 0) (withE { benchEnv with
      stage := .decay, lastOutput := ⟨0x3F600000#32⟩, stageTime := ⟨0x3A000000#32⟩ }))
      (fun s => (s.env[0].stage, s.env[0].stageTime.bits)) =
      some (.decay, 0x3A000000#32) := by decide +kernel

/-- Vector ENV-RT2, the first sample after the retrigger. -/
theorem test_envProcess_retriggered :
    after (exec (.envProcess 0) (withE { benchEnv with
      stage := .attack, curveExponent := ⟨0x40000000#32⟩, stageTime := ⟨0x3A000000#32⟩,
      lastOutput := ⟨0x3E800000#32⟩ }))
      (fun s => (s.resp0, s.env[0].stageTime.bits)) =
      some (0x3DC80000#32, 0x3A200000#32) := by decide +kernel

/-- Vector ENV-4, sample 25: the ratio is above 1 and is cut to 1. -/
theorem test_envProcess_decay_ends :
    after (exec (.envProcess 0) (withE { benchEnv with
      stage := .decay, curveExponent := ⟨0x40000000#32⟩, decayTime := ⟨0x3A83126F#32⟩,
      stageTime := ⟨0x3A800000#32⟩, lastOutput := ⟨0x3A100030#32⟩ }))
      (fun s => (s.resp0, s.env[0].stage)) = some (0x00000000#32, .off) := by decide +kernel

/-- Vector ENV-S1: GETLAST is unscaled. -/
theorem test_envGetLast_unscaled :
    after (exec (.envGetLast 0) (withE { benchEnv with
      stage := .attack, lastOutput := ⟨0x3E400000#32⟩, outputScale := ⟨0x3F000000#32⟩ }))
      (·.resp0) = some 0x3E400000#32 := by decide +kernel

/-- Vector ENV-G1. -/
theorem test_envGetStage_decay :
    after (exec (.envGetStage 0) (withE { benchEnv with stage := .decay })) (·.resp0) =
      some 2#32 := by decide +kernel

/-! ### OSC -/

/-- Scenario W2 at 44100. -/
theorem test_oscInit_44100 :
    after (exec (.oscInit 0 ⟨0x472C4400#32⟩) (withO benchOsc))
      (fun s => (s.osc[0].frequency[0].bits, s.osc[0].phaseIncrement[6].bits)) =
      some (0x43DC0000#32, 0x3C2377EE#32) := by decide +kernel

/-- Scenario W3. -/
theorem test_oscSetNote_60 :
    after (exec (.oscSetNote 0 60#7) State.reset) (·.osc[0].baseFrequency.bits) =
      some 0x4382D012#32 := by decide +kernel

/-- Scenario W3: note 127 at 8192 Hz is clamped to 4096.0. -/
theorem test_oscSetNote_127_clamped :
    after (exec (.oscSetNote 0 127#7) (withO benchOsc)) (·.osc[0].baseFrequency.bits) =
      some 0x45800000#32 := by decide +kernel

/-- Vector OSC-C1. -/
theorem test_oscSetFreq_clamped :
    after (exec (.oscSetFreq 0 ⟨0x49742400#32⟩) (withO benchOsc))
      (fun s => (s.osc[0].baseFrequency.bits, s.osc[0].phaseIncrement[0].bits)) =
      some (0x45800000#32, 0x3F000000#32) := by decide +kernel

/-- Vector OSC-C2. -/
theorem test_oscSetAmp_clamped :
    after (exec (.oscSetAmp 0 ⟨0x40000000#32⟩) (withO benchOsc)) (·.osc[0].amplitude.bits) =
      some 0x3F800000#32 := by decide +kernel

/-- Vector OSC-3: the outer voices at full detune. -/
theorem test_oscSetDetune_full :
    after (exec (.oscSetDetune 0 ⟨0x3F800000#32⟩) (withO benchOsc))
      (fun s => (s.osc[0].frequency[1].bits, s.osc[0].frequency[5].bits,
        s.osc[0].frequency[6].bits)) =
      some (0x447F8E88#32, 0x447E3B4F#32, 0x4480E3EB#32) := by decide +kernel

/-- Vector OSC-2, the second sample. -/
theorem test_oscProcess_unison :
    after (exec (.oscProcess 0) (withO benchOsc))
      (fun s => (s.resp0, s.resp1, s.osc[0].phase[3].bits)) =
      some (0xBEFDFDFD#32, 0xBEFDFDFD#32, 0x3E800000#32) := by decide +kernel

/-- Vector OSC-5, the fifth sample: the sine of the rounded π is not exactly 0. -/
theorem test_oscProcess_sine_half :
    after (exec (.oscProcess 0) (withO { benchOsc with
      mode := .sine, amplitude := ⟨0x3F800000#32⟩, phase := Vector.replicate 7 ⟨0x3F000000#32⟩ }))
      (fun s => (s.resp0, s.resp1)) = some (0xB33BBD2E#32, 0xB33BBD2E#32) := by decide +kernel

theorem test_oscSetMode_sine :
    after (exec (.oscSetMode 0 .sine) (withO benchOsc)) (·.osc[0].mode) = some .sine := by
  decide +kernel

/-! ### FLT -/

/-- R201: the table is built for the clamped rate; instance 1 keeps its position. -/
theorem test_fltInit_own_instance :
    after (exec (.fltInit 0 ⟨0x46000000#32⟩) (withF benchFlt))
      (fun s => (s.tab.sr.bits, s.flt[0].cutoffPosition.bits, s.flt[1].cutoffPosition.bits)) =
      some (0x46000000#32, 0x3F800000#32, 0x3F000000#32) := by decide +kernel

/-- Vector FLT-T1: corners of the table at 48000 Hz. -/
theorem test_fltInit_corners :
    after (exec (.fltInit 0 ⟨0x473B8000#32⟩) State.reset)
      (fun s => (s.tab.entry[0][0].g.bits, s.tab.entry[31][511].g.bits,
        s.tab.entry[1][0].R.bits, s.tab.entry[0][7].R.bits)) =
      some (0x3AAB92AD#32, 0x406ED9F2#32, 0x3EE2BE2C#32, 0x3F800000#32) := by decide +kernel

/-- Vector FLT-C1. -/
theorem test_fltSetFreq_nan :
    after (exec (.fltSetFreq 0 ⟨0x7FC00000#32⟩) (withF benchFlt)) (·.flt[0].cutoffPosition.bits) =
      some 0x00000000#32 := by decide +kernel

/-- Vector FLT-C3: a NaN is stored with its payload. -/
theorem test_fltAddFreq_any_pattern :
    after (exec (.fltAddFreq 1 ⟨0xFFC12345#32⟩) (withF benchFlt)) (·.flt[1].cutoffAddition.bits) =
      some 0xFFC12345#32 := by decide +kernel

/-- Vector FLT-C2. -/
theorem test_fltSetQ_high :
    after (exec (.fltSetQ 0 ⟨0x7F800000#32⟩) (withF benchFlt)) (·.flt[0].resonancePosition.bits) =
      some 0x3F800000#32 := by decide +kernel

/-- Vector FLT-G1; the addition is ignored. -/
theorem test_fltGetFreq_half :
    after (exec (.fltGetFreq 0) (withF { benchFlt with cutoffAddition := ⟨0x3F000000#32⟩ }))
      (·.resp0) = some 0x441E1D27#32 := by decide +kernel

/-- Vector FLT-G1. -/
theorem test_fltGetQ_half :
    after (exec (.fltGetQ 0) (withF { benchFlt with resonancePosition := ⟨0x3F000000#32⟩ }))
      (·.resp0) = some 0x41240000#32 := by decide +kernel

/-- Vector FLT-I1, the first output. -/
theorem test_fltProcess_impulse :
    after (exec (.fltProcess 0 ⟨0x3F800000#32⟩) (withF benchFlt)) (·.resp0) =
      some 0x3ACF3985#32 := by decide +kernel

/-- Vectors FLT-N1 and FLT-L2: an infinite input gives the value of `g` once. -/
theorem test_fltProcess_infinite :
    after (exec (.fltProcess 1 ⟨0x7F800000#32⟩) (withF benchFlt)) (·.resp0) =
      some 0x3D29A6AE#32 := by decide +kernel

/-- Assumption log 21, by hand: at the table's lowest cutoff (entry [0][0] of FLT-T1) and an input of
+0.0, the smallest subnormal state stays, though R290 says that it decays. -/
theorem test_svf_subnormal_state_stays :
    let f := { benchFlt with s1 := ⟨0x00000001#32⟩ }
    svfStep f F32.zero ⟨⟨0x3AAB92AD#32⟩, Config.ONE, Config.ONE⟩ = f := by decide +kernel

theorem test_fltSetLookup_nearest :
    after (exec (.fltSetLookup 0 .nearest) (withF benchFlt))
      (fun s => (s.flt[0].interp, s.flt[1].interp)) = some (.nearest, .bilinear) := by
  decide +kernel

/-! ### Assembler text (R90), lines of programs P1 and P3 -/

theorem test_assemble_data :
    assembleLine "ENV.SETATTACK e0, 0.001953125 ; 16 samples".toList =
      some (some ⟨0x11000000#32, 0x3B000000#32⟩) := by decide +kernel

theorem test_assemble_imm :
    assembleLine "OSC.SETMODE o0, saw".toList = some (some ⟨0x26000001#32, 0x00000000#32⟩) := by
  decide +kernel

theorem test_assemble_rejects :
    assembleLine "OSC.SETNOTE o0, 128".toList = none := by decide +kernel

/-! ### Witnesses: a state and operands that meet the hypotheses of each statement -/

/-- An envelope half way up a linear attack. -/
def attackEnv : EnvUnit :=
  { benchEnv with
    stage := .attack, stageTime := ⟨0x3A800000#32⟩, lastOutput := ⟨0x3F000000#32⟩ }

/-- A legal state away from reset: envelopes in their attack, a sounding oscillator, the illegal bit
set, and a record on the port. -/
def legalState : State :=
  { State.reset with
    env := Vector.replicate 2 attackEnv
    osc := Vector.replicate 1 benchOsc
    flt := Vector.replicate 2 benchFlt
    status := 0x00000001#32
    port := [⟨0x25000000#32, 0#32⟩] }

theorem attackEnv_legal : attackEnv.Legal where
  stageTime := ⟨by decide, by decide, by decide⟩
  sampleIncrement := ⟨⟨0x46000000#32⟩, ⟨by decide, by decide, by decide⟩, by decide +kernel⟩
  attackTime := ⟨by decide, by decide, by decide⟩
  attackAdd := ⟨by decide, by decide, by decide⟩
  decayTime := ⟨by decide, by decide, by decide⟩
  decayAdd := ⟨by decide, by decide, by decide⟩
  curveExponent := ⟨by decide, by decide, by decide⟩
  outputScale := ⟨by decide, by decide, by decide⟩
  lastOutput := ⟨by decide, by decide, by decide⟩
  offIsSilent := by decide

theorem benchOsc_legal : benchOsc.Legal where
  sampleRate := ⟨by decide, by decide, by decide⟩
  baseFrequency := ⟨by decide, by decide, by decide +kernel⟩
  detuneAmount := ⟨by decide, by decide, by decide⟩
  amplitude := ⟨by decide, by decide, by decide⟩
  frequency := by unfold F32Within; decide +kernel
  phaseIncrement := by unfold F32BelowOne; decide +kernel
  phase := by unfold F32BelowOne; decide +kernel

theorem benchFlt_legal : benchFlt.Legal where
  cutoffPosition := ⟨by decide, by decide, by decide⟩
  resonancePosition := ⟨by decide, by decide, by decide⟩

/-- Meets the hypothesis `State.Inv` of StageLengthsAreNeverZero, EnvOutputStaysInTheUnitInterval,
NoteSixtyNineIncrementIsExact, LegalBlockNeverStops and FrameCompletesFromLegalStates; the instance
numbers they take are 0 and 1. -/
theorem witness_legalState : legalState.Inv where
  env n := by fin_cases n <;> exact attackEnv_legal
  osc n := by fin_cases n; exact benchOsc_legal
  flt n := by fin_cases n <;> exact benchFlt_legal
  tab := ⟨⟨by decide, by decide, by decide⟩, rfl⟩
  status := .inr rfl

/-- EveryStepKeepsTheInvariant. -/
theorem witness_EveryStepKeepsTheInvariant : ∃ t, legalState.Inv ∧ step legalState = .next t :=
  ⟨_, witness_legalState, rfl⟩

/-- Every instance-number hypothesis of the ENV, OSC and FLT statements, at each boundary. -/
theorem witness_instances :
    (0#8).toNat < Config.NUM_ENV ∧ (1#8).toNat < Config.NUM_ENV ∧ (0#8).toNat < Config.NUM_OSC ∧
    (0#8).toNat < Config.NUM_FLT ∧ (1#8).toNat < Config.NUM_FLT := by decide

theorem witness_StepRunsTheDecodedCommand :
    legalState.port = ⟨0x25000000#32, 0#32⟩ :: [] ∧
    decode ⟨0x25000000#32, 0#32⟩ = .ok (.oscProcess 0) := ⟨rfl, rfl⟩

/-- IllegalWordSetsOnlyTheIllegalBit: the mode code 3, alone and at the front of the port. -/
theorem witness_IllegalWordSetsOnlyTheIllegalBit :
    ¬ LegalWord 0x26000003#32 ∧
    { legalState with port := [⟨0x26000003#32, 0#32⟩] }.port = ⟨0x26000003#32, 0#32⟩ :: [] :=
  ⟨by simp [LegalWord, assignedOps, ImmForm.holds], rfl⟩

theorem witness_IdleBlockKeepsAllState : State.reset.port = [] := rfl

/-- DecodeOfEncodeIsTheInstruction, at the last instance and the last note. -/
theorem witness_DecodeOfEncodeIsTheInstruction :
    (Instr.fltProcess 1 ⟨0xFFFFFFFF#32⟩).wellFormed = true ∧
    (Instr.oscSetNote 0 127).wellFormed = true ∧ Instr.sysReset.wellFormed = true := by decide

/-- EncodeOfDecodeIsTheWord, and the last part of RecordsReadBackFromTheirBytes. -/
theorem witness_records :
    decode ⟨0x37000001#32, 9#32⟩ = .ok (.fltSetLookup 0 .bilinear) ∧
    ([1, 2, 3, 4, 5, 6, 7] : List Byte).length < 8 := ⟨rfl, by decide⟩

/-- IllegalBitIsSticky: the bit cleared, and a reserved bit that was set before. -/
theorem witness_IllegalBitIsSticky :
    (∃ t, exec .sysClrStatus legalState = .next t ∧
      legalState.status.getLsbD 0 = true ∧ t.status.getLsbD 0 = false) ∧
    (∃ t, exec .sysNop { legalState with status := 0x80000000#32 } = .next t ∧
      t.status.getLsbD 31 = true) :=
  ⟨⟨_, rfl, by decide, by decide⟩, ⟨_, rfl, by decide⟩⟩

/-- EnvReleaseEndsOnlyAnAttack, both clauses. -/
theorem witness_EnvReleaseEndsOnlyAnAttack :
    legalState.env[(1#8).toNat].stage = .attack ∧ State.reset.env[(1#8).toNat].stage ≠ .attack := by
  decide

/-- What EnvProcessAdvancesOneSample calls `up`. -/
def upOf (e : EnvUnit) : F32 :=
  POW (F32.div (F32.add e.stageTime e.sampleIncrement) (F32.add e.attackTime e.attackAdd))
    e.curveExponent

/-- What EnvProcessAdvancesOneSample calls `down`. -/
def downOf (e : EnvUnit) : F32 :=
  POW (F32.sub Config.ONE (F32.min1 (F32.div (F32.add e.stageTime e.sampleIncrement)
    (F32.add e.decayTime e.decayAdd)))) e.curveExponent

/-- EnvProcessAdvancesOneSample: one state for each clause, the attack and the decay each at its
last sample and one before it. -/
theorem witness_EnvProcessAdvancesOneSample :
    benchEnv.stage = .off ∧
    F32.ge (upOf { attackEnv with stageTime := ⟨0x3AF00000#32⟩ }) Config.ONE = true ∧
    F32.ge (upOf { attackEnv with stageTime := ⟨0x3AE00000#32⟩ }) Config.ONE = false ∧
    F32.le (downOf { benchEnv with stage := .decay, stageTime := ⟨0x3B780000#32⟩ })
      Config.ENV_OFF_LEVEL = true ∧
    F32.le (downOf { benchEnv with stage := .decay, stageTime := ⟨0x3B700000#32⟩ })
      Config.ENV_OFF_LEVEL = false := by decide +kernel

/-- StagesChangeOnlyAsTabled: a stage changed by each of the commands that can. -/
theorem witness_StagesChangeOnlyAsTabled :
    (∃ t, exec .sysReset legalState = .next t ∧ t.env[1].stage ≠ legalState.env[1].stage) ∧
    (∃ t, exec (.envInit 1 F32.zero) legalState = .next t ∧
      t.env[1].stage ≠ legalState.env[1].stage) ∧
    (∃ t, exec (.envTrigger 1) State.reset = .next t ∧
      t.env[1].stage ≠ State.reset.env[1].stage) ∧
    (∃ t, exec (.envRelease 1) legalState = .next t ∧
      t.env[1].stage ≠ legalState.env[1].stage) :=
  ⟨⟨_, rfl, by decide⟩, ⟨_, rfl, by decide⟩, ⟨_, rfl, by decide⟩, ⟨_, rfl, by decide⟩⟩

theorem witness_RetriggerRestartsOnTheRamp :
    F32.gt legalState.env[(0#8).toNat].lastOutput F32.zero = true := by decide +kernel

/-- An envelope a quarter of the way down a linear decay. -/
def decayEnv : EnvUnit :=
  { benchEnv with
    stage := .decay, stageTime := ⟨0x3A800000#32⟩, lastOutput := ⟨0x3F400000#32⟩ }

/-- The legal state with its envelopes in their decay. -/
def decayState : State := { legalState with env := Vector.replicate 2 decayEnv }

theorem decayState_legal : decayState.Inv :=
  { witness_legalState with
    env := by
      have h : decayEnv.Legal :=
        { attackEnv_legal with
          stageTime := ⟨by decide, by decide, by decide⟩
          lastOutput := ⟨by decide, by decide, by decide⟩
          offIsSilent := by decide }
      intro n
      fin_cases n <;> exact h }

/-- LinearAttackNeverFalls: two samples half way up, and two a quarter of the way down. -/
theorem witness_LinearAttackNeverFalls :
    (∃ t u, legalState.Inv ∧ legalState.env[(0#8).toNat].curveExponent = Config.ONE ∧
      exec (.envProcess 0) legalState = .next t ∧ exec (.envProcess 0) t = .next u ∧
      legalState.env[(0#8).toNat].stage = .attack ∧ t.env[(0#8).toNat].stage = .attack) ∧
    (∃ t u, decayState.Inv ∧ decayState.env[(0#8).toNat].curveExponent = Config.ONE ∧
      exec (.envProcess 0) decayState = .next t ∧ exec (.envProcess 0) t = .next u ∧
      decayState.env[(0#8).toNat].stage = .decay ∧ t.env[(0#8).toNat].stage = .decay) :=
  ⟨⟨_, _, witness_legalState, rfl, rfl, rfl, rfl, by decide +kernel⟩,
    ⟨_, _, decayState_legal, rfl, rfl, rfl, rfl, by decide +kernel⟩⟩

/-- PhaseAdvanceWrapsExactly: the largest phase and increment, which wrap. -/
theorem witness_PhaseAdvanceWrapsExactly :
    F32BelowOne ⟨0x3F7FFFFF#32⟩ ∧ F32BelowOne F32.zero ∧
    F32.ge (F32.add ⟨0x3F7FFFFF#32⟩ ⟨0x3F7FFFFF#32⟩) Config.ONE = true :=
  ⟨⟨by decide, by decide⟩, ⟨by decide, by decide⟩, by decide +kernel⟩

/-- TableChangesOnlyWhereBuilt, CommandsKeepOtherInstances and ResponsesChangeOnlyByAnswers: a command
that rebuilds the table, names one instance and answers nothing. -/
theorem witness_frames :
    (∃ t, exec (.fltInit 0 F32.zero) legalState = .next t) ∧
    Instr.fltInit 0 F32.zero ≠ .sysReset ∧
    (∀ n : InstNo, target (.fltInit 0 F32.zero) = .env n → n.toNat ≠ 1) ∧
    (∀ n : InstNo, target (.fltInit 0 F32.zero) = .osc n → n.toNat ≠ 0) ∧
    (∀ n : InstNo, target (.fltInit 0 F32.zero) = .flt n → n.toNat ≠ 1) ∧
    writesResp0 (.fltInit 0 F32.zero) = false ∧
    (∀ n : InstNo, Instr.fltInit 0 F32.zero ≠ .oscProcess n) :=
  ⟨⟨_, rfl⟩, nofun, nofun, nofun, by rintro n ⟨⟩; decide, rfl, nofun⟩

/-- LegalPositionsIndexInsideTheGrid: both ends of the range, on both axes. -/
theorem witness_LegalPositionsIndexInsideTheGrid :
    F32Within F32.zero Config.ONE F32.zero ∧ F32Within F32.zero Config.ONE Config.ONE ∧
    (512 = Config.FS ∨ 512 = Config.RS) ∧ (32 = Config.FS ∨ 32 = Config.RS) :=
  ⟨⟨by decide, by decide, by decide⟩, ⟨by decide, by decide, by decide⟩, by decide, by decide⟩

/-- LookupReadsTheGrid, at the last step of the frequency axis and the first of the other. -/
theorem witness_LookupReadsTheGrid :
    ∃ gi gj, gridIndex (F32.clamp (F32.add Config.ONE F32.zero) F32.zero Config.ONE) Config.FS =
        some gi ∧ gridIndex F32.zero Config.RS = some gj ∧ gi.k0.val = 511 ∧ gi.k1.val = 511 :=
  ⟨⟨511, 511, F32.zero⟩, ⟨0, 1, F32.zero⟩, by decide +kernel, by decide +kernel, rfl, rfl⟩

/-- FltProcessRunsTheFilterStep, and both cases of NanPoisonsTheFilter's first part. -/
theorem witness_filterSteps :
    F32Within F32.zero Config.ONE legalState.flt[(0#8).toNat].resonancePosition ∧
    F32.isNaN ⟨0x7FC00000#32⟩ = true ∧
    (withF { benchFlt with s1 := ⟨0x7FC00000#32⟩ }).flt[(0#8).toNat].s1.isNaN = true :=
  ⟨⟨by decide, by decide, by decide⟩, by decide, by decide⟩

/-- NanPoisonsTheFilter's second part: NaN in both states of instance 1, while instance 0 is
initialized. -/
theorem witness_NanPoisonsTheFilter :
    (∃ t, exec (.fltInit 0 F32.zero)
        (withF { benchFlt with s1 := F32.qNaN, s2 := F32.qNaN }) = .next t) ∧
    Instr.fltInit 0 F32.zero ≠ .sysReset ∧
    (∀ (n : InstNo) (d : F32), Instr.fltInit 0 F32.zero = .fltInit n d → n.toNat ≠ 1) ∧
    (withF { benchFlt with s1 := F32.qNaN, s2 := F32.qNaN }).flt[1].s1.isNaN = true ∧
    (withF { benchFlt with s1 := F32.qNaN, s2 := F32.qNaN }).flt[1].s2.isNaN = true :=
  ⟨⟨_, rfl⟩, nofun, by rintro n d ⟨⟩; decide, by decide, by decide⟩

theorem witness_NanResonanceStopsTheLookup :
    (withF { benchFlt with resonancePosition := ⟨0x7FC00000#32⟩ }).flt[(0#8).toNat].resonancePosition.isNaN
      = true := by decide

/-- BandPassIsSaturated: an infinite sample, whose `TANH` argument is infinite and no NaN. -/
theorem witness_BandPassIsSaturated :
    (F32.add (svfV1 benchFlt ⟨0x7F800000#32⟩ ⟨Config.ONE, Config.ONE, Config.ONE⟩)
      benchFlt.s1).isNaN = false := by decide +kernel

/-- LerpOfEqualEndsIsTheEnd: the largest finite value, the smallest subnormal and both zeros as ends
and weights. -/
theorem witness_LerpOfEqualEndsIsTheEnd :
    F32.isFinite ⟨0x7F7FFFFF#32⟩ = true ∧ F32.isFinite ⟨0x00000001#32⟩ = true ∧
    F32.isFinite ⟨0x80000000#32⟩ = true ∧ F32.isFinite F32.zero = true ∧
    F32.isFinite Config.ONE = true := by decide

/-- LerpOfEqualEndsIsTheEnd at an end of -0.0: the exception at the weight 1.0, the end itself at the
weight -1.0; and an end of +0.0 is itself at both (IEEE 754 signs of zero, by hand). -/
theorem witness_LerpOfEqualEndsIsTheEnd_zeros :
    lerp ⟨0x80000000#32⟩ ⟨0x80000000#32⟩ Config.ONE = F32.zero ∧
    lerp ⟨0x80000000#32⟩ ⟨0x80000000#32⟩ ⟨0xBF800000#32⟩ = ⟨0x80000000#32⟩ ∧
    lerp F32.zero F32.zero Config.ONE = F32.zero ∧
    lerp F32.zero F32.zero ⟨0xBF800000#32⟩ = F32.zero := by decide +kernel

theorem witness_NoteOnExpandsByVelocity : (127#7 : BitVec 7) ≠ 0 ∧ (1#7 : BitVec 7) ≠ 0 := by decide

/-- RoundingIsToNearestEven: 3/2 units lie half way between the patterns 1 and 2, and 2 is even. -/
theorem witness_RoundingIsToNearestEven :
    0 < 2 ∧ roundMag 3 2 < F32.infLow ∧ 1 < F32.infLow ∧
    |(F32.magOf 1 * 2 : Int) - 3| = |(F32.magOf (roundMag 3 2) * 2 : Int) - 3| ∧
    1 ≠ roundMag 3 2 := by decide +kernel

/-- ClampMeetsItsRule: a NaN, the lower bound itself, the upper bound itself and a value between. -/
theorem witness_ClampMeetsItsRule :
    F32.le F32.zero Config.ONE = true ∧ F32.isNaN F32.qNaN = true ∧
    F32.le F32.zero F32.zero = true ∧ F32.le Config.ONE F32.zero = false ∧
    F32.le Config.ONE Config.ONE = true ∧ F32.le Config.HALF F32.zero = false ∧
    F32.le Config.ONE Config.HALF = false := by decide +kernel

theorem witness_ComparisonsFollowTheValues :
    F32.isNaN F32.qNaN = true ∧ F32.isFinite ⟨0x80000000#32⟩ = true ∧
    F32.isFinite ⟨0x7F7FFFFF#32⟩ = true := by decide

/-- PowMeetsItsIdentities and PowKeepsToItsSideOfOne: the least positive value, 1.0 and the greatest
finite value, with the exponents 0 and 4. -/
theorem witness_pow :
    F32.sign ⟨0x7F7FFFFF#32⟩ = false ∧ F32.isFinite ⟨0x7F7FFFFF#32⟩ = true ∧
    F32Within F32.zero ⟨0x40800000#32⟩ ⟨0x40800000#32⟩ ∧
    F32Within F32.zero ⟨0x40800000#32⟩ F32.zero ∧
    F32.low ⟨0x00000001#32⟩ ≠ 0 ∧ F32.low ⟨0x00000001#32⟩ ≤ Config.ONE.low ∧
    Config.ONE.low ≤ Config.ONE.low ∧ Config.ONE.low ≤ F32.low ⟨0x7F7FFFFF#32⟩ :=
  ⟨by decide, by decide, ⟨by decide, by decide, by decide⟩, ⟨by decide, by decide, by decide⟩,
    by decide, by decide, by decide, by decide⟩

/-- TanhIsOddAndTanhAndSinAreBounded, one argument for each clause. -/
theorem witness_TanhIsOddAndTanhAndSinAreBounded :
    F32.isNaN F32.qNaN = true ∧ F32.isNaN ⟨0xFF800000#32⟩ = false ∧
    F32.low ⟨0x80000000#32⟩ = 0 ∧ F32.isInf ⟨0xFF800000#32⟩ = true ∧
    F32.isFinite ⟨0x7F7FFFFF#32⟩ = true := by decide

/-- SettledEnclosureIsNearest: the bounds 2 and 9/4 units around 2 both round to the pattern 2. -/
theorem witness_SettledEnclosureIsNearest :
    ((2 : ℕ) : ℝ) / (1 : ℕ) ≤ 2 ∧ (2 : ℝ) ≤ ((9 : ℕ) : ℝ) / (4 : ℕ) ∧
    (Ratio.mk 2 1).round = (Ratio.mk 9 4).round ∧ (Ratio.mk 2 1).round < F32.infLow ∧
    2 < F32.infLow := by
  refine ⟨by norm_num, by norm_num, by decide +kernel, by decide +kernel, by decide⟩

/-- PowerEnclosureIsSound, at its least magnitude and precision. -/
theorem witness_PowerEnclosureIsSound : 0 < 1 ∧ 3 ≤ 3 := by decide

end Sys2Proof.Tests
end

section
/-! SUPPORT. Comparisons and the clamp (00_scope.md R10, R11). -/

namespace Sys2Proof

/-! ### Comparisons -/

theorem F32.le_iff {x y : F32} :
    x.le y = true ↔ x.isNaN = false ∧ y.isNaN = false ∧ x.ord ≤ y.ord := by
  simp [F32.le, and_assoc]

theorem F32.lt_iff {x y : F32} :
    x.lt y = true ↔ x.isNaN = false ∧ y.isNaN = false ∧ x.ord < y.ord := by
  simp [F32.lt, and_assoc]

theorem F32.le_self {x : F32} (h : x.isNaN = false) : x.le x = true :=
  F32.le_iff.2 ⟨h, h, le_refl _⟩

/-- Of two operands that are not NaN one is at or below the other. -/
theorem F32.le_of_not_le {x y : F32} (hx : x.isNaN = false) (hy : y.isNaN = false)
    (h : x.le y = false) : y.le x = true := by
  have hxy : ¬ x.ord ≤ y.ord := fun hle => by simp [F32.le_iff.2 ⟨hx, hy, hle⟩] at h
  exact F32.le_iff.2 ⟨hy, hx, by omega⟩

theorem low_lt_of_isFinite {x : F32} (h : x.isFinite = true) : x.low < F32.infLow :=
  of_decide_eq_true h

theorem magOf_zero : F32.magOf 0 = 0 := magOf_of_lt (by decide)

/-- The order of finite patterns is the order of their values; the two zeros share one place. -/
theorem ord_le_ord_iff_val {x y : F32} (hx : x.isFinite = true) (hy : y.isFinite = true) :
    x.ord ≤ y.ord ↔ x.val ≤ y.val := by
  have hx := low_lt_of_isFinite hx
  have hy := low_lt_of_isFinite hy
  have h0 : 0 < F32.infLow := by decide
  have hxy := magOf_le_magOf hx hy
  have hyx := magOf_le_magOf hy hx
  have hx0 := magOf_le_magOf hx h0
  have hy0 := magOf_le_magOf hy h0
  rw [magOf_zero] at hx0 hy0
  unfold F32.ord F32.val F32.mag
  cases x.sign <;> cases y.sign <;> simp only [if_true, if_false, Bool.false_eq_true] <;> omega

/-- Settles O53: the order of the patterns that are not NaN is, on finite ones, the order of the
values. -/
theorem comparisonsFollowTheValues : Obligations.ComparisonsFollowTheValues := by
  intro x y
  refine ⟨fun h => ?_, fun hx hy => ?_⟩
  · rcases h with h | h <;> simp [F32.lt, F32.le, h]
  · have hnx : x.isNaN = false := isNaN_eq_false (low_lt_of_isFinite hx).le
    have hny : y.isNaN = false := isNaN_eq_false (low_lt_of_isFinite hy).le
    have hxy := ord_le_ord_iff_val hx hy
    have hyx := ord_le_ord_iff_val hy hx
    rw [F32.lt_iff, F32.le_iff]
    simp only [hnx, hny, true_and]
    exact ⟨by omega, hxy⟩

/-! ### The clamp -/

section Clamp

variable {x lo hi : F32}

theorem clamp_eq_lo (h : x.isNaN = true ∨ x.le lo = true) : F32.clamp x lo hi = lo := by
  simp [F32.clamp, h]

theorem clamp_eq_hi (hn : x.isNaN = false) (hlo : x.le lo = false) (hhi : hi.le x = true) :
    F32.clamp x lo hi = hi := by
  simp [F32.clamp, F32.ge, hn, hlo, hhi]

theorem clamp_eq_self (hn : x.isNaN = false) (hlo : x.le lo = false) (hhi : hi.le x = false) :
    F32.clamp x lo hi = x := by
  simp [F32.clamp, F32.ge, hn, hlo, hhi]

/-- A clamp between ordered bounds, of whatever sign, stays between them. -/
theorem clamp_mem_range (x : F32) (h : lo.le hi = true) :
    lo.le (F32.clamp x lo hi) = true ∧ (F32.clamp x lo hi).le hi = true := by
  obtain ⟨hlo, hhi, -⟩ := F32.le_iff.1 h
  by_cases h1 : x.isNaN = true ∨ x.le lo = true
  · rw [clamp_eq_lo h1]
    exact ⟨F32.le_self hlo, h⟩
  · simp only [not_or, Bool.not_eq_true] at h1
    obtain ⟨hn, hxlo⟩ := h1
    cases hhx : hi.le x
    · rw [clamp_eq_self hn hxlo hhx]
      exact ⟨F32.le_of_not_le hn hlo hxlo, F32.le_of_not_le hhi hn hhx⟩
    · rw [clamp_eq_hi hn hxlo hhx]
      exact ⟨h, F32.le_self hhi⟩

end Clamp

/-- Settles O52: the three branches of the clamp, and its range from them. -/
theorem clampMeetsItsRule : Obligations.ClampMeetsItsRule := fun x _ _ h =>
  ⟨clamp_eq_lo, clamp_eq_hi, clamp_eq_self, clamp_mem_range x h⟩

end Sys2Proof
end

section
/-! SUPPORT. Rounding to nearest, ties to even (00_scope.md R8), and what a settled enclosure says
about the real numbers it holds (R9). -/

namespace Sys2Proof

/-! ### The nearest integer -/

/-- `divEven` is within half a unit of the quotient, and even at exactly half a unit. -/
theorem divEven_error (a : Nat) {b : Nat} (hb : 0 < b) :
    2 * |(divEven a b * b : Int) - a| ≤ b ∧
      (2 * |(divEven a b * b : Int) - a| = b → divEven a b % 2 = 0) := by
  have hr := Nat.mod_lt a hb
  have ha : (a : Int) = (a / b : Nat) * b + (a % b : Nat) := by
    exact_mod_cast (Nat.div_add_mod' a b).symm
  have hcases : (divEven a b = a / b ∧ 2 * (a % b) < b) ∨
      (divEven a b = a / b + 1 ∧ b < 2 * (a % b)) ∨
      (2 * (a % b) = b ∧ divEven a b = a / b + (a / b) % 2) := by
    unfold divEven
    dsimp only
    split_ifs <;> omega
  generalize a / b = m at ha hcases
  generalize a % b = r at ha hcases hr
  rcases hcases with ⟨hD, h⟩ | ⟨hD, h⟩ | ⟨h, hD⟩
  · have herr : (divEven a b * b : Int) - a = -r := by rw [hD, ha]; ring
    rw [herr, abs_neg, Nat.abs_cast]
    omega
  · have herr : (divEven a b * b : Int) - a = (b - r : Nat) := by
      rw [hD, ha, Nat.cast_sub hr.le]; push_cast; ring
    rw [herr, Nat.abs_cast]
    omega
  · refine ⟨?_, fun _ => by omega⟩
    rcases Nat.mod_two_eq_zero_or_one m with hm | hm
    · have herr : (divEven a b * b : Int) - a = -r := by rw [hD, hm, ha]; push_cast; ring
      rw [herr, abs_neg, Nat.abs_cast]
      omega
    · have herr : (divEven a b * b : Int) - a = (b - r : Nat) := by
        rw [hD, hm, ha, Nat.cast_sub hr.le]; push_cast; ring
      rw [herr, Nat.abs_cast]
      omega

/-- Two different multiples of `b` are at least `b` apart. -/
theorem le_abs_mul_sub_mul {m n : Nat} (b : Nat) (h : n ≠ m) :
    (b : Int) ≤ |(n * b : Int) - m * b| := by
  have h1 : (1 : Int) ≤ |(n : Int) - m| := Int.one_le_abs (by omega)
  rw [← sub_mul, abs_mul, Nat.abs_cast]
  nlinarith [Int.natCast_nonneg b]

/-- `divEven` is a nearest integer, and even where another one is equally near. -/
theorem divEven_nearest (a n : Nat) {b : Nat} (hb : 0 < b) :
    |(divEven a b * b : Int) - a| ≤ |(n * b : Int) - a| ∧
      (|(n * b : Int) - a| = |(divEven a b * b : Int) - a| → n ≠ divEven a b →
        divEven a b % 2 = 0) := by
  obtain ⟨herr, heven⟩ := divEven_error a hb
  rcases eq_or_ne n (divEven a b) with rfl | hne
  · exact ⟨le_refl _, fun _ h => absurd rfl h⟩
  · have hapart := le_abs_mul_sub_mul b hne
    have htri := abs_sub_le (n * b : Int) a (divEven a b * b)
    rw [abs_sub_comm (a : Int)] at htri
    exact ⟨by omega, fun htie _ => heven (by omega)⟩

/-! ### The grid a rational is rounded to -/

/-- A magnitude is a multiple of a last-place step `2 ^ s`, or below the binade of that step, which
is then not the first. -/
theorem magOf_dvd_or_lt (low s : Nat) :
    2 ^ s ∣ F32.magOf low ∨ (s ≠ 0 ∧ F32.magOf low < 2 ^ 23 * 2 ^ s) := by
  rcases Nat.eq_zero_or_pos s with rfl | hs
  · exact .inl (one_dvd _)
  rcases he : low / 2 ^ 23 with _ | e
  · refine .inr ⟨hs.ne', ?_⟩
    rw [magOf_of_lt (by omega)]
    have := Nat.two_pow_pos s
    omega
  · rw [magOf_succ he]
    rcases Nat.lt_or_ge e s with h | h
    · refine .inr ⟨hs.ne', ?_⟩
      calc (2 ^ 23 + low % 2 ^ 23) * 2 ^ e < 2 ^ 24 * 2 ^ e :=
            Nat.mul_lt_mul_of_pos_right (by omega) (Nat.two_pow_pos e)
        _ = 2 ^ 23 * 2 ^ (e + 1) := by ring
        _ ≤ 2 ^ 23 * 2 ^ s := Nat.mul_le_mul_left _ (Nat.pow_le_pow_right (by decide) h)
    · exact .inl (Dvd.dvd.mul_left (pow_dvd_pow 2 h) _)

/-- The magnitude of a pattern written as `n` steps of `2 ^ s`, the carry to the next binade
included. -/
theorem magOf_steps {s n : Nat} (hn : n ≤ 2 ^ 24) (hs : s = 0 ∨ 2 ^ 23 ≤ n) :
    F32.magOf (s * 2 ^ 23 + n) = n * 2 ^ s := by
  rcases Nat.eq_or_lt_of_le hn with rfl | hlt
  · have hfrac : (s * 2 ^ 23 + 2 ^ 24) % 2 ^ 23 = 0 := by omega
    rw [magOf_succ (e := s + 1) (by omega), hfrac]
    ring
  · rcases hs with rfl | hs
    · rw [Nat.zero_mul, Nat.zero_add, pow_zero, Nat.mul_one, magOf_of_lt hlt]
    · rw [magOf_succ (e := s) (by omega)]
      congr 1
      omega

section Grid

variable {num den : Nat}

/-- The significand of a rational is below 2^24 last-place steps. -/
theorem num_lt_steps (hd : 0 < den) :
    num < 2 ^ 24 * (den * 2 ^ ((num / den).log2 - 23)) := by
  have h : num / den < 2 ^ 24 * 2 ^ ((num / den).log2 - 23) := by
    calc num / den < 2 ^ ((num / den).log2 + 1) := Nat.lt_log2_self
      _ ≤ 2 ^ (24 + ((num / den).log2 - 23)) := Nat.pow_le_pow_right (by decide) (by omega)
      _ = _ := pow_add _ _ _
  calc num < 2 ^ 24 * 2 ^ ((num / den).log2 - 23) * den := (Nat.div_lt_iff_lt_mul hd).1 h
    _ = _ := by ring

/-- The significand of a rational above the first binade is at least 2^23 last-place steps. -/
theorem steps_le_num (hd : 0 < den) (hs : (num / den).log2 - 23 ≠ 0) :
    2 ^ 23 * (den * 2 ^ ((num / den).log2 - 23)) ≤ num := by
  have h0 : num / den ≠ 0 := fun h0 => by simp [h0] at hs
  have h : 2 ^ 23 * 2 ^ ((num / den).log2 - 23) ≤ num / den := by
    rw [← pow_add, ← Nat.le_log2 h0]
    omega
  calc 2 ^ 23 * (den * 2 ^ ((num / den).log2 - 23))
      = 2 ^ 23 * 2 ^ ((num / den).log2 - 23) * den := by ring
    _ ≤ num := (Nat.le_div_iff_mul_le hd).1 h

/-- A finite rounded magnitude is a nearest whole number of last-place steps, and beyond the first
binade the rational is at least 2^23 such steps. -/
theorem roundMag_eq_steps (hd : 0 < den) (hf : roundMag num den < F32.infLow) :
    ∃ s, roundMag num den = s * 2 ^ 23 + divEven num (den * 2 ^ s) ∧
      F32.magOf (roundMag num den) = divEven num (den * 2 ^ s) * 2 ^ s ∧
      (s = 0 ∨ 2 ^ 23 * (den * 2 ^ s) ≤ num) := by
  generalize hs : (num / den).log2 - 23 = s
  have hb : 0 < den * 2 ^ s := Nat.mul_pos hd (Nat.two_pow_pos s)
  have hlow : s = 0 ∨ 2 ^ 23 * (den * 2 ^ s) ≤ num := by
    rcases Nat.eq_zero_or_pos s with h | h
    · exact .inl h
    · subst hs
      exact .inr (steps_le_num hd h.ne')
  have hpat : roundMag num den = s * 2 ^ 23 + divEven num (den * 2 ^ s) := by
    unfold roundMag roundAt at hf ⊢
    rw [hs] at hf ⊢
    omega
  refine ⟨s, hpat, ?_, hlow⟩
  rw [hpat]
  apply magOf_steps
  · rw [← divEven_mul (2 ^ 24) hb]
    exact divEven_mono hb hb (Nat.mul_le_mul_right _ (hs ▸ (num_lt_steps hd).le))
  · refine hlow.imp_right fun h => le_trans ?_ (le_divEven _ _)
    rwa [Nat.le_div_iff_mul_le hb]

end Grid

theorem magOf_inj {a b : Nat} (ha : a < F32.infLow) (hb : b < F32.infLow)
    (h : F32.magOf a = F32.magOf b) : a = b :=
  le_antisymm ((magOf_le_magOf ha hb).1 h.le) ((magOf_le_magOf hb ha).1 h.ge)

/-- Of two numbers below `a` the greater is the nearer. -/
theorem abs_sub_lt_of_lt_of_le {x y a : Int} (hxy : x < y) (hya : y ≤ a) : |y - a| < |x - a| := by
  rw [abs_of_nonpos (by omega), abs_of_nonpos (by omega)]
  omega

/-- Rounding to the grid of a step `2 ^ s` is nearer than anything below a point of that grid that
the rational reaches. -/
theorem divEven_nearer_than_below {num den s n mag : Nat} (hd : 0 < den)
    (hn : n * (den * 2 ^ s) ≤ num) (hmag : mag < n * 2 ^ s) :
    |(divEven num (den * 2 ^ s) * (den * 2 ^ s : Nat) : Int) - num| < |(mag * den : Int) - num| := by
  have hlt : mag * den < n * (den * 2 ^ s) :=
    calc mag * den < n * 2 ^ s * den := Nat.mul_lt_mul_of_pos_right hmag hd
      _ = n * (den * 2 ^ s) := by ring
  refine lt_of_le_of_lt (divEven_nearest num n (Nat.mul_pos hd (Nat.two_pow_pos s))).1 ?_
  exact abs_sub_lt_of_lt_of_le (by exact_mod_cast hlt) (by exact_mod_cast hn)

/-- Settles O51: a pattern on the grid of the last-place step is no nearer than the nearest point of
that grid, and one off the grid lies below the whole binade. -/
theorem roundingIsToNearestEven : Obligations.RoundingIsToNearestEven := by
  intro num den hd hf dist low hlow
  obtain ⟨s, hpat, hmag, hs⟩ := roundMag_eq_steps hd hf
  have hgrid : ∀ l n, F32.magOf l = n * 2 ^ s →
      dist l = |(n * (den * 2 ^ s : Nat) : Int) - num| := by
    intro l n h
    simp only [dist, h]
    push_cast
    ring_nf
  rw [hgrid _ _ hmag]
  rcases magOf_dvd_or_lt low s with ⟨n, hn⟩ | ⟨hs0, hbelow⟩
  · rw [Nat.mul_comm] at hn
    rw [hgrid _ _ hn]
    obtain ⟨hle, heven⟩ := divEven_nearest num n (Nat.mul_pos hd (Nat.two_pow_pos s))
    refine ⟨hle, fun htie hne => ?_⟩
    have hsteps : n ≠ divEven num (den * 2 ^ s) := fun h =>
      hne (magOf_inj hlow hf (by rw [hmag, hn, h]))
    have := heven htie hsteps
    omega
  · have hlt := divEven_nearer_than_below hd (hs.resolve_left hs0) hbelow
    exact ⟨hlt.le, fun htie => absurd htie hlt.ne'⟩

/-! ### Settled enclosures -/

/-- What is nearer to `m` than to `l` is an interval. -/
theorem abs_sub_le_of_between {m l a b r : ℝ} (ha : |m - a| ≤ |l - a|) (hb : |m - b| ≤ |l - b|)
    (har : a ≤ r) (hrb : r ≤ b) : |m - r| ≤ |l - r| := by
  rw [← sq_le_sq] at *
  rcases le_total m l with h | h <;> nlinarith

/-- A rounded rational, if finite, is a nearest pattern to the real number it stands for. -/
theorem abs_magOf_roundMag_sub_le {num den low : Nat} (hd : 0 < den)
    (hf : roundMag num den < F32.infLow) (hlow : low < F32.infLow) :
    |(F32.magOf (roundMag num den) : ℝ) - num / den| ≤ |(F32.magOf low : ℝ) - num / den| := by
  have hd' : (0 : ℝ) < den := by exact_mod_cast hd
  have hscale : ∀ k : Nat, |(k : ℝ) - num / den| * den = ((|(k * den : Int) - num| : Int) : ℝ) := by
    intro k
    push_cast
    rw [← abs_of_pos hd', ← abs_mul, abs_of_pos hd', sub_mul, div_mul_cancel₀ _ hd'.ne']
  have hnear : |(F32.magOf (roundMag num den) * den : Int) - num| ≤
      |(F32.magOf low * den : Int) - num| := (roundingIsToNearestEven num den hd hf low hlow).1
  rw [← mul_le_mul_iff_left₀ hd', hscale, hscale]
  exact Int.cast_le.2 hnear

/-- Settles O58: the pattern is nearest to both bounds, hence to all between them. -/
theorem settledEnclosureIsNearest : Obligations.SettledEnclosureIsNearest := by
  intro e r hlo hhi hlor hrhi hsettled hf low hlow
  refine abs_sub_le_of_between ?_ ?_ hlor hrhi
  · exact abs_magOf_roundMag_sub_le hlo hf hlow
  · rw [hsettled] at hf ⊢
    exact abs_magOf_roundMag_sub_le hhi hf hlow

end Sys2Proof
end

section
/-! SUPPORT. The series behind the enclosures of 00_scope.md R9: each fixed-point recursion of
Machine/Enclosure.lean is on its side of a partial sum with a cut-off term, and the partial sum on
its side of the exponential or the logarithm. -/

namespace Sys2Proof

open Finset

/-! ### Divisions rounded up -/

theorem le_mul_cdiv (a : Nat) {b : Nat} (hb : 0 < b) : a ≤ b * cdiv a b := by
  have h1 := Nat.div_add_mod (a + (b - 1)) b
  have h2 := Nat.mod_lt (a + (b - 1)) hb
  unfold cdiv
  omega

theorem div_le_cdiv (a : Nat) {b : Nat} (hb : 0 < b) : (a : ℝ) / b ≤ cdiv a b := by
  rw [div_le_iff₀' (by exact_mod_cast hb)]
  exact_mod_cast le_mul_cdiv a hb

theorem div_le_cdivInt (a : Int) {b : Int} (hb : 0 < b) : (a : ℝ) / b ≤ cdivInt a b := by
  have h : a ≤ cdivInt a b * b := by
    have := Int.ediv_mul_le (-a) hb.ne'
    unfold cdivInt
    linarith
  rw [div_le_iff₀ (by exact_mod_cast hb)]
  exact_mod_cast h

theorem intCast_div_le (a : Int) {b : Int} (hb : 0 < b) : ((a / b : Int) : ℝ) ≤ a / b := by
  rw [le_div_iff₀ (by exact_mod_cast hb)]
  exact_mod_cast Int.ediv_mul_le a hb.ne'

/-! ### The exponential series -/

/-- The first `k` terms of the exponential series at `y`, with `a` in place of the factor that the
rest leaves in the next term. -/
noncomputable def expCut (y a : ℝ) (k : Nat) : ℝ :=
  ∑ i ∈ range k, y ^ i / i.factorial + y ^ k / k.factorial * a

theorem expCut_succ (y a : ℝ) (k : Nat) :
    expCut y (1 + y * a / (k + 1)) k = expCut y a (k + 1) := by
  have hk : ((k : ℝ) + 1) ≠ 0 := by positivity
  have hf : (k.factorial : ℝ) ≠ 0 := by positivity
  unfold expCut
  rw [sum_range_succ, Nat.factorial_succ]
  push_cast
  field_simp
  ring

theorem expCut_mono {y z a b : ℝ} (k : Nat) (hy : 0 ≤ y) (hyz : y ≤ z) (ha : 0 ≤ a)
    (hab : a ≤ b) : expCut y a k ≤ expCut z b k := by
  have hz := hy.trans hyz
  unfold expCut
  gcongr

theorem expLo_le_expCut {one : Nat} (h1 : 0 < one) (y k acc : Nat) :
    (expLo one y k acc : ℝ) ≤ one * expCut (y / one) (acc / one) k := by
  have h1' : (0 : ℝ) < one := by exact_mod_cast h1
  induction k generalizing acc with
  | zero => simp [expLo, expCut, mul_div_cancel₀ _ h1'.ne']
  | succ k ih =>
    refine (ih _).trans (mul_le_mul_of_nonneg_left ?_ h1'.le)
    rw [← expCut_succ]
    refine expCut_mono k (by positivity) le_rfl (by positivity) ?_
    have h := Nat.cast_div_le (α := ℝ) (m := y * acc) (n := one * (k + 1))
    push_cast at h ⊢
    calc ((one : ℝ) + (y * acc / (one * (k + 1)) : Nat)) / one
        ≤ (one + y * acc / (one * (k + 1))) / one := by gcongr
      _ = 1 + y / one * (acc / one) / (k + 1) := by field_simp

theorem expCut_le_expHi {one : Nat} (h1 : 0 < one) (y k acc : Nat) :
    one * expCut (y / one) (acc / one) k ≤ expHi one y k acc := by
  have h1' : (0 : ℝ) < one := by exact_mod_cast h1
  induction k generalizing acc with
  | zero => simp [expHi, expCut, mul_div_cancel₀ _ h1'.ne']
  | succ k ih =>
    refine (mul_le_mul_of_nonneg_left ?_ h1'.le).trans (ih _)
    rw [← expCut_succ]
    refine expCut_mono k (by positivity) le_rfl (by positivity) ?_
    have h := div_le_cdiv (y * acc) (b := one * (k + 1)) (by positivity)
    push_cast at h ⊢
    calc (1 : ℝ) + y / one * (acc / one) / (k + 1)
        = (one + y * acc / (one * (k + 1))) / one := by field_simp
      _ ≤ (one + cdiv (y * acc) (one * (k + 1))) / one := by gcongr

theorem expCut_one_le_exp {y : ℝ} (hy : 0 ≤ y) (k : Nat) : expCut y 1 k ≤ Real.exp y := by
  have h := Real.sum_le_exp_of_nonneg hy (k + 1)
  rwa [sum_range_succ, ← mul_one (y ^ k / k.factorial)] at h

/-- Beyond any term the series adds at most as much again, as long as the exponential is at
most 2. -/
theorem exp_le_expCut_two {y : ℝ} (h0 : 0 ≤ y) (h1 : y ≤ 1) (h2 : Real.exp y ≤ 2) (k : Nat) :
    Real.exp y ≤ expCut y 2 k := by
  rcases Nat.eq_zero_or_pos k with rfl | hk
  · simpa [expCut] using h2
  · refine (Real.exp_bound' h0 h1 hk).trans ?_
    have hk1 : (1 : ℝ) ≤ k := by exact_mod_cast hk
    have hrest : ((k : ℝ) + 1) / k ≤ 2 := by
      rw [div_le_iff₀ (by linarith)]
      linarith
    unfold expCut
    calc _ = ∑ i ∈ range k, y ^ i / i.factorial + y ^ k / k.factorial * ((k + 1) / k) := by
            rw [div_mul_div_comm]
      _ ≤ _ := by gcongr

/-! ### The series of the inverse hyperbolic tangent -/

/-- The first `k` terms of `1 + w/3 + w²/5 + …`, with `a` as the factor of the next power. -/
noncomputable def atanhCut (w a : ℝ) (k : Nat) : ℝ :=
  ∑ i ∈ range k, w ^ i / (2 * i + 1) + w ^ k * a

theorem atanhCut_succ (w a : ℝ) (k : Nat) :
    atanhCut w (1 / (2 * k + 1) + w * a) k = atanhCut w a (k + 1) := by
  unfold atanhCut
  rw [sum_range_succ]
  ring

theorem atanhCut_mono {w x a b : ℝ} (k : Nat) (hw : 0 ≤ w) (hwx : w ≤ x) (ha : 0 ≤ a)
    (hab : a ≤ b) : atanhCut w a k ≤ atanhCut x b k := by
  have hx := hw.trans hwx
  unfold atanhCut
  gcongr

theorem atanhLo_le_atanhCut {one : Nat} (h1 : 0 < one) (w k acc : Nat) :
    (atanhLo one w k acc : ℝ) ≤ one * atanhCut (w / one) (acc / one) k := by
  have h1' : (0 : ℝ) < one := by exact_mod_cast h1
  induction k generalizing acc with
  | zero => simp [atanhLo, atanhCut, mul_div_cancel₀ _ h1'.ne']
  | succ k ih =>
    refine (ih _).trans (mul_le_mul_of_nonneg_left ?_ h1'.le)
    rw [← atanhCut_succ]
    refine atanhCut_mono k (by positivity) le_rfl (by positivity) ?_
    have hd := Nat.cast_div_le (α := ℝ) (m := one) (n := 2 * k + 1)
    have hw := Nat.cast_div_le (α := ℝ) (m := w * acc) (n := one)
    push_cast at hd hw ⊢
    calc ((one / (2 * k + 1) : Nat) + (w * acc / one : Nat) : ℝ) / one
        ≤ (one / (2 * k + 1) + w * acc / one) / one := by gcongr
      _ = 1 / (2 * k + 1) + w / one * (acc / one) := by field_simp

theorem atanhCut_le_atanhHi {one : Nat} (h1 : 0 < one) (w k acc : Nat) :
    one * atanhCut (w / one) (acc / one) k ≤ atanhHi one w k acc := by
  have h1' : (0 : ℝ) < one := by exact_mod_cast h1
  induction k generalizing acc with
  | zero => simp [atanhHi, atanhCut, mul_div_cancel₀ _ h1'.ne']
  | succ k ih =>
    refine (mul_le_mul_of_nonneg_left ?_ h1'.le).trans (ih _)
    rw [← atanhCut_succ]
    refine atanhCut_mono k (by positivity) le_rfl (by positivity) ?_
    have hd := div_le_cdiv one (b := 2 * k + 1) (by positivity)
    have hw := div_le_cdiv (w * acc) h1
    push_cast at hd hw ⊢
    calc 1 / (2 * k + 1) + w / one * (acc / one)
        = ((one : ℝ) / (2 * k + 1) + w * acc / one) / one := by field_simp
      _ ≤ (cdiv one (2 * k + 1) + cdiv (w * acc) one) / one := by gcongr

/-! ### The logarithm -/

/-- The logarithm whose series is `2z` times that of `atanhCut` at `z²`. -/
theorem hasSum_two_mul_atanh {z : ℝ} (h0 : 0 ≤ z) (h1 : z < 1) :
    HasSum (fun i : Nat => 2 * z * ((z ^ 2) ^ i / (2 * i + 1))) (Real.log ((1 + z) / (1 - z))) := by
  have h := Real.hasSum_log_sub_log_of_abs_lt_one (x := z) (by rw [abs_of_nonneg h0]; exact h1)
  rw [← Real.log_div (by linarith) (by linarith)] at h
  convert h using 2 with i
  rw [← pow_mul, pow_succ]
  ring

theorem two_mul_atanhCut_zero_le_log {z : ℝ} (h0 : 0 ≤ z) (h1 : z < 1) (k : Nat) :
    2 * z * atanhCut (z ^ 2) 0 k ≤ Real.log ((1 + z) / (1 - z)) := by
  rw [atanhCut, mul_zero, add_zero, mul_sum]
  exact sum_le_hasSum _ (fun i _ => by positivity) (hasSum_two_mul_atanh h0 h1)

/-- Beyond at least one term the rest of the series is below a geometric one, for `z` up to 1/3. -/
theorem log_le_two_mul_atanhCut_one {z : ℝ} (h0 : 0 ≤ z) (h1 : z ≤ 1 / 3) {k : Nat} (hk : 0 < k) :
    Real.log ((1 + z) / (1 - z)) ≤ 2 * z * atanhCut (z ^ 2) 1 k := by
  have hw : z ^ 2 ≤ 1 / 9 := by nlinarith
  have hrest := (hasSum_nat_add_iff' k).2 (hasSum_two_mul_atanh h0 (by linarith))
  have hgeom := (hasSum_geometric_of_lt_one (sq_nonneg z) (by linarith)).mul_left
    (2 * z * (z ^ 2) ^ k * (1 / 3))
  have hle := hasSum_le (fun i => ?_) hrest hgeom
  · have hsum : (1 - z ^ 2)⁻¹ ≤ 3 := by
      rw [inv_le_comm₀ (by linarith) (by norm_num)]
      linarith
    have hcut : 2 * z * (z ^ 2) ^ k * (1 / 3) * (1 - z ^ 2)⁻¹ ≤ 2 * z * (z ^ 2) ^ k := by
      calc _ ≤ 2 * z * (z ^ 2) ^ k * (1 / 3) * 3 := by gcongr
        _ = _ := by ring
    rw [atanhCut, mul_one, mul_add, mul_sum]
    linarith
  · have hden : (3 : ℝ) ≤ 2 * (i + k : Nat) + 1 := by
      have : 1 ≤ i + k := by omega
      have : (1 : ℝ) ≤ (i + k : Nat) := by exact_mod_cast this
      linarith
    calc 2 * z * ((z ^ 2) ^ (i + k) / (2 * (i + k : Nat) + 1))
        ≤ 2 * z * ((z ^ 2) ^ (i + k) / 3) := by gcongr
      _ = _ := by ring

/-! ### The constant `ln 2` -/

theorem log_two_eq : Real.log 2 = Real.log ((1 + 1 / 3) / (1 - 1 / 3)) := by norm_num

theorem two_mul_atanhLo_le_log_two {one : Nat} (h1 : 0 < one) (k : Nat) :
    (2 * atanhLo one (one / 9) k 0 : ℝ) ≤ one * (3 * Real.log 2) := by
  have h1' : (0 : ℝ) < one := by exact_mod_cast h1
  have hlo := atanhLo_le_atanhCut h1 (one / 9) k 0
  have hw : ((one / 9 : Nat) : ℝ) / one ≤ (1 / 3) ^ 2 := by
    have := Nat.cast_div_le (α := ℝ) (m := one) (n := 9)
    rw [div_le_iff₀ h1']
    push_cast at this
    linarith
  have hcut := atanhCut_mono k (by positivity) hw le_rfl (le_refl (0 : ℝ))
  have hlog := two_mul_atanhCut_zero_le_log (z := 1 / 3) (by norm_num) (by norm_num) k
  rw [← log_two_eq] at hlog
  simp only [Nat.cast_zero, zero_div] at hlo
  nlinarith

theorem log_two_le_two_mul_atanhHi {one : Nat} (h1 : 0 < one) {k : Nat} (hk : 0 < k) :
    one * (3 * Real.log 2) ≤ 2 * atanhHi one (cdiv one 9) k one := by
  have h1' : (0 : ℝ) < one := by exact_mod_cast h1
  have hhi := atanhCut_le_atanhHi h1 (cdiv one 9) k one
  have hw : (1 / 3) ^ 2 ≤ (cdiv one 9 : ℝ) / one := by
    have := div_le_cdiv one (b := 9) (by norm_num)
    rw [le_div_iff₀ h1']
    push_cast at this
    linarith
  have hcut := atanhCut_mono k (by norm_num) hw zero_le_one (le_refl (1 : ℝ))
  have hlog := log_le_two_mul_atanhCut_one (z := 1 / 3) (by norm_num) le_rfl hk
  rw [← log_two_eq] at hlog
  rw [div_self h1'.ne'] at hhi
  nlinarith

/-- 640 bits and 213 terms of the series tell the 512 bits of the constant. -/
theorem ln2Bits_bounds :
    ln2Bits * (3 * 2 ^ 640) ≤ 2 * atanhLo (2 ^ 640) (2 ^ 640 / 9) 213 0 * 2 ^ constPrec ∧
    2 * atanhHi (2 ^ 640) (cdiv (2 ^ 640) 9) 213 (2 ^ 640) * 2 ^ constPrec ≤
      (ln2Bits + 1) * (3 * 2 ^ 640) := by
  decide +kernel

theorem ln2Bits_le : (ln2Bits : ℝ) ≤ 2 ^ constPrec * Real.log 2 := by
  have hone : 0 < 2 ^ 640 := by positivity
  have hbits := ln2Bits_bounds.1
  have hlog := two_mul_atanhLo_le_log_two hone 213
  generalize 2 ^ 640 = one at *
  generalize constPrec = c at *
  have h1' : (0 : ℝ) < one := by exact_mod_cast hone
  rify at hbits
  have : (ln2Bits : ℝ) * (3 * one) ≤ 2 ^ c * Real.log 2 * (3 * one) := by
    calc _ ≤ _ := hbits
      _ ≤ one * (3 * Real.log 2) * 2 ^ c := by gcongr
      _ = _ := by ring
  exact le_of_mul_le_mul_right this (by positivity)

theorem le_ln2Bits_add_one : 2 ^ constPrec * Real.log 2 ≤ (ln2Bits + 1 : Nat) := by
  have hone : 0 < 2 ^ 640 := by positivity
  have hbits := ln2Bits_bounds.2
  have hlog := log_two_le_two_mul_atanhHi hone (k := 213) (by norm_num)
  generalize 2 ^ 640 = one at *
  generalize constPrec = c at *
  have h1' : (0 : ℝ) < one := by exact_mod_cast hone
  rify at hbits
  have : 2 ^ c * Real.log 2 * (3 * one) ≤ (ln2Bits + 1 : Nat) * (3 * one) := by
    calc _ = one * (3 * Real.log 2) * 2 ^ c := by ring
      _ ≤ 2 * atanhHi one (cdiv one 9) 213 one * 2 ^ c := by gcongr
      _ ≤ _ := by push_cast; exact hbits
  exact le_of_mul_le_mul_right this (by positivity)

end Sys2Proof
end

section
/-! SUPPORT. The enclosures of EXP2 and of POW hold the exact real results (00_scope.md R9). -/

namespace Sys2Proof

/-- The real number a rational stands for. -/
noncomputable def Ratio.value (r : Ratio) : ℝ := (r.num : ℝ) / r.den

/-! ### Powers of two with a fractional exponent -/

section Frac

variable (p t : Nat)

theorem two_rpow_eq_exp (x : ℝ) : (2 : ℝ) ^ x = Real.exp (x * Real.log 2) := by
  rw [Real.rpow_def_of_pos two_pos, mul_comm]

theorem expArgLo_le : ((t * ln2Bits / 2 ^ constPrec : Nat) : ℝ) ≤ t * Real.log 2 := by
  have h := Nat.cast_div_le (α := ℝ) (m := t * ln2Bits) (n := 2 ^ constPrec)
  have hbits := ln2Bits_le
  generalize constPrec = c at *
  refine h.trans ?_
  push_cast
  rw [div_le_iff₀ (by positivity)]
  calc (t : ℝ) * ln2Bits ≤ t * (2 ^ c * Real.log 2) := by gcongr
    _ = _ := by ring

theorem le_expArgHi : t * Real.log 2 ≤ (cdiv (t * (ln2Bits + 1)) (2 ^ constPrec) : ℝ) := by
  have h := div_le_cdiv (t * (ln2Bits + 1)) (Nat.two_pow_pos constPrec)
  have hbits := le_ln2Bits_add_one
  generalize constPrec = c at *
  refine le_trans ?_ h
  push_cast at hbits ⊢
  rw [le_div_iff₀ (by positivity)]
  calc t * Real.log 2 * 2 ^ c = t * (2 ^ c * Real.log 2) := by ring
    _ ≤ t * (ln2Bits + 1) := by gcongr

theorem exp2FracLo_le : (exp2FracLo p t : ℝ) ≤ 2 ^ p * (2 : ℝ) ^ ((t : ℝ) / 2 ^ p) := by
  have hmin : exp2FracLo p t ≤ expLo (2 ^ p) (t * ln2Bits / 2 ^ constPrec) (p / 4) (2 ^ p) :=
    Nat.min_le_right _ _
  have hseries := expLo_le_expCut (Nat.two_pow_pos p) (t * ln2Bits / 2 ^ constPrec) (p / 4) (2 ^ p)
  have harg := expArgLo_le t
  generalize t * ln2Bits / 2 ^ constPrec = y at *
  have hexp := expCut_one_le_exp (y := (y : ℝ) / 2 ^ p) (by positivity) (p / 4)
  push_cast at hseries
  rw [div_self (by positivity)] at hseries
  calc (exp2FracLo p t : ℝ) ≤ expLo (2 ^ p) y (p / 4) (2 ^ p) := by exact_mod_cast hmin
    _ ≤ 2 ^ p * expCut ((y : ℝ) / 2 ^ p) 1 (p / 4) := hseries
    _ ≤ 2 ^ p * Real.exp ((y : ℝ) / 2 ^ p) := by gcongr
    _ ≤ 2 ^ p * Real.exp (t / 2 ^ p * Real.log 2) := by rw [div_mul_eq_mul_div]; gcongr
    _ = 2 ^ p * (2 : ℝ) ^ ((t : ℝ) / 2 ^ p) := by rw [two_rpow_eq_exp]

theorem le_exp2FracHi {t : Nat} (ht : t ≤ 2 ^ p) :
    2 ^ p * (2 : ℝ) ^ ((t : ℝ) / 2 ^ p) ≤ exp2FracHi p t := by
  have hx1 : (t : ℝ) / 2 ^ p ≤ 1 := (div_le_one (by positivity)).2 (by exact_mod_cast ht)
  have htwo : (2 : ℝ) ^ ((t : ℝ) / 2 ^ p) ≤ 2 := by
    simpa using Real.rpow_le_rpow_of_exponent_le one_le_two hx1
  have hseries := expCut_le_expHi (Nat.two_pow_pos p) (cdiv (t * (ln2Bits + 1)) (2 ^ constPrec))
    (p / 4) (2 * 2 ^ p)
  have harg := le_expArgHi t
  rw [exp2FracHi, Nat.cast_min, le_min_iff]
  generalize cdiv (t * (ln2Bits + 1)) (2 ^ constPrec) = y at *
  have hlog : (t : ℝ) / 2 ^ p * Real.log 2 ≤ y / 2 ^ p := by rw [div_mul_eq_mul_div]; gcongr
  have hlog0 : 0 ≤ Real.log 2 := Real.log_nonneg one_le_two
  rw [two_rpow_eq_exp] at *
  have hexp := exp_le_expCut_two (by positivity)
    (by nlinarith [Real.log_two_lt_d9] : (t : ℝ) / 2 ^ p * Real.log 2 ≤ 1) htwo (p / 4)
  have hmono := expCut_mono (p / 4) (by positivity) hlog zero_le_two (le_refl (2 : ℝ))
  push_cast at hseries ⊢
  rw [mul_div_cancel_right₀ _ (by positivity)] at hseries
  constructor
  · rw [mul_comm]
    gcongr
  · calc _ ≤ 2 ^ p * expCut ((y : ℝ) / 2 ^ p) 2 (p / 4) := by gcongr; exact hexp.trans hmono
      _ ≤ _ := hseries

end Frac

/-! ### EXP2 -/

theorem scaleBy_value (p f : Nat) (n : Int) :
    (scaleBy p f n).value = f / 2 ^ p * (2 : ℝ) ^ (n : ℝ) * 2 ^ 149 := by
  have hn : (2 : ℝ) ^ (n : ℝ) * 2 ^ 149 = 2 ^ (n + 149) := by
    rw [Real.rpow_intCast, zpow_add₀ two_ne_zero]
    norm_cast
  rw [mul_assoc, hn, scaleBy]
  unfold Ratio.value
  rcases n + 149 with e | e
  · simp only [Int.ofNat_eq_natCast, zpow_natCast]
    push_cast
    ring
  · rw [zpow_negSucc]
    push_cast
    field_simp

/-- A fixed-point exponent is its whole part and its fraction. -/
theorem two_rpow_fixed (p : Nat) (y : Int) :
    (2 : ℝ) ^ ((y : ℝ) / 2 ^ p) =
      (2 : ℝ) ^ (((y % 2 ^ p).toNat : ℝ) / 2 ^ p) * (2 : ℝ) ^ ((y / 2 ^ p : Int) : ℝ) := by
  have hp : (0 : Int) < 2 ^ p := by positivity
  have ht : (((y % 2 ^ p).toNat : Int) : ℝ) = ((y % 2 ^ p : Int) : ℝ) := by
    rw [Int.toNat_of_nonneg (Int.emod_nonneg _ hp.ne')]
  have hy : (y : ℝ) = 2 ^ p * (y / 2 ^ p : Int) + (y % 2 ^ p : Int) := by
    exact_mod_cast (Int.mul_ediv_add_emod y (2 ^ p)).symm
  rw [← Real.rpow_add two_pos]
  congr 1
  rw [Int.cast_natCast] at ht
  rw [ht, hy]
  field_simp
  ring

theorem exp2Lo_value_le {p : Nat} {y : Int} {x : ℝ} (h : (y : ℝ) / 2 ^ p ≤ x) :
    (exp2Lo p y).value ≤ (2 : ℝ) ^ x * 2 ^ 149 := by
  have hy : (exp2Lo p y).value ≤ (2 : ℝ) ^ ((y : ℝ) / 2 ^ p) * 2 ^ 149 := by
    rw [exp2Lo, scaleBy_value, two_rpow_fixed]
    gcongr
    rw [div_le_iff₀' (by positivity)]
    exact exp2FracLo_le _ _
  refine hy.trans ?_
  gcongr
  exact one_le_two

theorem le_exp2Hi_value {p : Nat} {y : Int} {x : ℝ} (h : x ≤ (y : ℝ) / 2 ^ p) :
    (2 : ℝ) ^ x * 2 ^ 149 ≤ (exp2Hi p y).value := by
  have ht : (y % 2 ^ p).toNat ≤ 2 ^ p := by
    have := Int.emod_lt_of_pos y (b := 2 ^ p) (by positivity)
    zify
    omega
  have hy : (2 : ℝ) ^ ((y : ℝ) / 2 ^ p) * 2 ^ 149 ≤ (exp2Hi p y).value := by
    rw [exp2Hi, scaleBy_value, two_rpow_fixed]
    gcongr
    rw [le_div_iff₀' (by positivity)]
    exact le_exp2FracHi _ ht
  refine le_trans ?_ hy
  gcongr
  exact one_le_two

/-- A number of `2 ^ -p` parts of a unit of 2^-149, rounded down to `p` fractional bits. -/
theorem floor_units_le (a : Int) (p : Nat) :
    ((a / 2 ^ 149 : Int) : ℝ) / 2 ^ p ≤ a / 2 ^ p / 2 ^ 149 := by
  have h := intCast_div_le a (b := 2 ^ 149) (by positivity)
  simp only [Int.cast_pow, Int.cast_ofNat] at h
  rw [div_right_comm]
  gcongr

/-- The same, rounded up. -/
theorem le_ceil_units (a : Int) (p : Nat) :
    (a : ℝ) / 2 ^ p / 2 ^ 149 ≤ (cdivInt a (2 ^ 149) : ℝ) / 2 ^ p := by
  have h := div_le_cdivInt a (b := 2 ^ 149) (by positivity)
  simp only [Int.cast_pow, Int.cast_ofNat] at h
  rw [div_right_comm]
  gcongr

/-- Settles O59: each bound is taken at a fixed-point exponent on its side of the exact one. -/
theorem exponentialEnclosureIsSound : Obligations.ExponentialEnclosureIsSound := by
  intro v p
  have hv : ((v * 2 ^ p : Int) : ℝ) / 2 ^ p = v := by
    push_cast
    exact mul_div_cancel_right₀ _ (by positivity)
  constructor
  · exact exp2Lo_value_le ((floor_units_le _ p).trans_eq (by rw [hv]))
  · exact le_exp2Hi_value (le_trans (by rw [hv]) (le_ceil_units _ p))

/-! ### The logarithm to base two -/

section Log

variable {one n : Nat} {z : ℝ}

/-- From a lower bound of `z` the series gives one of the logarithm. -/
theorem two_mul_atanhLo_le_log (h1 : 0 < one) (hz0 : 0 ≤ z) (hz1 : z < 1) (hn : n ≤ one * z)
    (j : Nat) : (2 * n * atanhLo one (n * n / one) j 0 : ℝ) ≤
      one * (one * Real.log ((1 + z) / (1 - z))) := by
  have h1' : (0 : ℝ) < one := by exact_mod_cast h1
  have hseries := atanhLo_le_atanhCut h1 (n * n / one) j 0
  have hw : ((n * n / one : Nat) : ℝ) / one ≤ z ^ 2 := by
    have hdiv := Nat.cast_div_le (α := ℝ) (m := n * n) (n := one)
    push_cast at hdiv
    rw [div_le_iff₀ h1']
    refine hdiv.trans ((div_le_iff₀ h1').2 ?_)
    calc (n : ℝ) * n ≤ (one * z) * (one * z) := by gcongr
      _ = _ := by ring
  have hcut := atanhCut_mono j (by positivity) hw le_rfl (le_refl (0 : ℝ))
  have hlog := two_mul_atanhCut_zero_le_log hz0 hz1 j
  rw [Nat.cast_zero, zero_div] at hseries
  calc (2 * n * atanhLo one (n * n / one) j 0 : ℝ)
      ≤ 2 * (one * z) * (one * atanhCut (z ^ 2) 0 j) := by
        gcongr
        exact hseries.trans (by gcongr)
    _ = one * (one * (2 * z * atanhCut (z ^ 2) 0 j)) := by ring
    _ ≤ _ := by gcongr

/-- From an upper bound of `z` up to 1/3 the series, with at least one term, gives one of the
logarithm. -/
theorem log_le_two_mul_atanhHi (h1 : 0 < one) (hz0 : 0 ≤ z) (hz1 : z ≤ 1 / 3) (hn : one * z ≤ n)
    {j : Nat} (hj : 0 < j) : one * (one * Real.log ((1 + z) / (1 - z))) ≤
      (2 * n * atanhHi one (cdiv (n * n) one) j one : ℝ) := by
  have h1' : (0 : ℝ) < one := by exact_mod_cast h1
  have hseries := atanhCut_le_atanhHi h1 (cdiv (n * n) one) j one
  have hw : z ^ 2 ≤ (cdiv (n * n) one : ℝ) / one := by
    have hdiv := div_le_cdiv (n * n) h1
    push_cast at hdiv
    rw [le_div_iff₀ h1']
    refine le_trans ((le_div_iff₀ h1').2 ?_) hdiv
    calc z ^ 2 * one * one = (one * z) * (one * z) := by ring
      _ ≤ (n : ℝ) * n := by gcongr
  have hcut := atanhCut_mono j (sq_nonneg z) hw zero_le_one (le_refl (1 : ℝ))
  have hlog := log_le_two_mul_atanhCut_one hz0 hz1 hj
  rw [div_self h1'.ne'] at hseries
  have hcut0 : 0 ≤ atanhCut (z ^ 2) 1 j := by unfold atanhCut; positivity
  calc one * (one * Real.log ((1 + z) / (1 - z)))
      ≤ one * (one * (2 * z * atanhCut (z ^ 2) 1 j)) := by gcongr
    _ = 2 * (one * z) * (one * atanhCut (z ^ 2) 1 j) := by ring
    _ ≤ _ := by
        gcongr
        exact le_trans (by gcongr) hseries

end Log

section Log2

variable {k l : Nat}

/-- The argument of the series for the logarithm of `k / 2 ^ l`. -/
noncomputable def atanhArg (k l : Nat) : ℝ := (k - 2 ^ l) / (k + 2 ^ l)

theorem atanhArg_nonneg (h : 2 ^ l ≤ k) : 0 ≤ atanhArg k l := by
  have : ((2 ^ l : Nat) : ℝ) ≤ k := by exact_mod_cast h
  push_cast at this
  exact div_nonneg (by linarith) (by positivity)

theorem atanhArg_le (h : k ≤ 2 * 2 ^ l) : atanhArg k l ≤ 1 / 3 := by
  have : (k : ℝ) ≤ (2 * 2 ^ l : Nat) := by exact_mod_cast h
  push_cast at this
  rw [atanhArg, div_le_div_iff₀ (by positivity) (by norm_num)]
  linarith

theorem atanhArg_spec (hk : 0 < k) :
    (1 + atanhArg k l) / (1 - atanhArg k l) = (k : ℝ) / 2 ^ l := by
  have hk' : (0 : ℝ) < k := by exact_mod_cast hk
  have hden : (k : ℝ) + 2 ^ l ≠ 0 := by positivity
  unfold atanhArg
  rw [one_add_div hden, one_sub_div hden, div_div_div_cancel_right₀ hden, add_add_sub_cancel]
  field_simp
  ring

theorem natCast_mul_atanhArg (h : 2 ^ l ≤ k) (one : Nat) :
    (((k - 2 ^ l) * one : Nat) : ℝ) / (k + 2 ^ l : Nat) = one * atanhArg k l := by
  rw [atanhArg, Nat.cast_mul, Nat.cast_sub h]
  push_cast
  ring

theorem log_div_two_pow (hk : 0 < k) :
    Real.log ((1 + atanhArg k l) / (1 - atanhArg k l)) =
      Real.logb 2 (k / 2 ^ l) * Real.log 2 := by
  rw [atanhArg_spec hk, Real.logb, div_mul_cancel₀ _ (Real.log_pos one_lt_two).ne']

theorem logb_div_two_pow_nonneg (hl : 2 ^ l ≤ k) : 0 ≤ Real.logb 2 ((k : ℝ) / 2 ^ l) :=
  Real.logb_nonneg one_lt_two ((one_le_div (by positivity)).2 (by exact_mod_cast hl))

theorem log2Frac_lo_le (p : Nat) (hl : 2 ^ l ≤ k) (hl2 : k ≤ 2 * 2 ^ l) :
    ((log2Frac p k l).lo : ℝ) ≤ 2 ^ p * Real.logb 2 (k / 2 ^ l) := by
  have hk : 0 < k := lt_of_lt_of_le (Nat.two_pow_pos l) hl
  have hz1 := atanhArg_le hl2
  have hn : (((k - 2 ^ l) * 2 ^ p / (k + 2 ^ l) : Nat) : ℝ) ≤ (2 ^ p : Nat) * atanhArg k l :=
    Nat.cast_div_le.trans_eq (natCast_mul_atanhArg hl _)
  have hseries := two_mul_atanhLo_le_log (Nat.two_pow_pos p) (atanhArg_nonneg hl) (by linarith) hn
    (p / 3)
  rw [log_div_two_pow hk] at hseries
  have hlogb := logb_div_two_pow_nonneg hl
  have hbits := le_ln2Bits_add_one
  unfold log2Frac
  dsimp only
  generalize atanhLo _ _ _ _ = s at *
  generalize (k - 2 ^ l) * 2 ^ p / (k + 2 ^ l) = n at *
  generalize Real.logb 2 (k / 2 ^ l) = lg at *
  generalize constPrec = c at *
  refine Nat.cast_div_le.trans ?_
  push_cast at *
  rw [div_le_iff₀ (by positivity)]
  calc (2 * n * s * 2 ^ c : ℝ) ≤ 2 ^ p * (2 ^ p * (lg * Real.log 2)) * 2 ^ c := by gcongr
    _ = 2 ^ p * lg * (2 ^ p * (2 ^ c * Real.log 2)) := by ring
    _ ≤ 2 ^ p * lg * (2 ^ p * (ln2Bits + 1)) := by gcongr

theorem le_log2Frac_hi {p : Nat} (hp : 3 ≤ p) (hl : 2 ^ l ≤ k) (hl2 : k ≤ 2 * 2 ^ l) :
    2 ^ p * Real.logb 2 (k / 2 ^ l) ≤ ((log2Frac p k l).hi : ℝ) := by
  have hk : 0 < k := lt_of_lt_of_le (Nat.two_pow_pos l) hl
  have hn : (2 ^ p : Nat) * atanhArg k l ≤ (cdiv ((k - 2 ^ l) * 2 ^ p) (k + 2 ^ l) : Nat) :=
    (natCast_mul_atanhArg hl _).symm.trans_le (div_le_cdiv _ (by positivity))
  have hseries := log_le_two_mul_atanhHi (Nat.two_pow_pos p) (atanhArg_nonneg hl) (atanhArg_le hl2)
    hn (j := p / 3) (by omega)
  rw [log_div_two_pow hk] at hseries
  have hlogb := logb_div_two_pow_nonneg hl
  have hlogb1 : Real.logb 2 (k / 2 ^ l) ≤ 1 := by
    rw [Real.logb_le_iff_le_rpow one_lt_two (by positivity), Real.rpow_one,
      div_le_iff₀ (by positivity)]
    exact_mod_cast hl2
  have hbits := ln2Bits_le
  have hbits0 : 0 < ln2Bits := by decide
  unfold log2Frac
  dsimp only
  generalize atanhHi _ _ _ _ = s at *
  generalize cdiv ((k - 2 ^ l) * 2 ^ p) (k + 2 ^ l) = n at *
  generalize Real.logb 2 (k / 2 ^ l) = lg at *
  generalize constPrec = c at *
  rw [Nat.cast_min, le_min_iff]
  constructor
  · push_cast
    exact mul_le_of_le_one_right (by positivity) hlogb1
  · refine le_trans ?_ (div_le_cdiv _ (by positivity))
    have hbits0' : (0 : ℝ) < ln2Bits := by exact_mod_cast hbits0
    push_cast at *
    rw [le_div_iff₀ (by positivity)]
    calc 2 ^ p * lg * (2 ^ p * ln2Bits) ≤ 2 ^ p * lg * (2 ^ p * (2 ^ c * Real.log 2)) := by gcongr
      _ = 2 ^ p * (2 ^ p * (lg * Real.log 2)) * 2 ^ c := by ring
      _ ≤ 2 * n * s * 2 ^ c := by gcongr

end Log2

/-! ### POW -/

/-- The exact power as a power of two, with the exponent the enclosure splits: the exponent of the
binade and the logarithm of the significand. -/
theorem pow_units_eq {k : Nat} (hk : 0 < k) (l : Nat) (c : ℝ) :
    ((k : ℝ) / 2 ^ 149) ^ c = (2 : ℝ) ^ ((((l : ℝ) - 149) + Real.logb 2 (k / 2 ^ l)) * c) := by
  have hk' : (0 : ℝ) < k := by exact_mod_cast hk
  have hpow : ∀ n : Nat, Real.logb 2 ((2 : ℝ) ^ n) = n := fun n => by
    rw [Real.logb_pow, Real.logb_self_eq_one one_lt_two, mul_one]
  have hlog : (l : ℝ) - 149 + Real.logb 2 (k / 2 ^ l) = Real.logb 2 ((k : ℝ) / 2 ^ 149) := by
    rw [Real.logb_div hk'.ne' (by positivity), Real.logb_div hk'.ne' (by positivity), hpow, hpow]
    push_cast
    ring
  rw [hlog, Real.rpow_mul zero_le_two, Real.rpow_logb two_pos (by norm_num) (by positivity)]

/-- A bound of the logarithm in `p` fractional bits, as the exponent the enclosure multiplies. -/
theorem exponent_units_eq (l b p cu : Nat) :
    (((((l : Int) - 149) * 2 ^ p + b) * cu : Int) : ℝ) / 2 ^ p / 2 ^ 149 =
      ((l : ℝ) - 149 + b / 2 ^ p) * (cu / 2 ^ 149) := by
  push_cast
  field_simp

/-- Settles O60: the bounds of the logarithm, multiplied by the exponent and rounded outwards,
bracket the exponent of two that the power has. -/
theorem powerEnclosureIsSound : Obligations.PowerEnclosureIsSound := by
  intro k cu p hk hp
  have hl : 2 ^ k.log2 ≤ k := Nat.log2_self_le hk.ne'
  have hl2 : k ≤ 2 * 2 ^ k.log2 := by
    have := Nat.lt_log2_self (n := k)
    omega
  have h2p : (0 : ℝ) < 2 ^ p := by positivity
  have hlo := log2Frac_lo_le p hl hl2
  have hhi := le_log2Frac_hi hp hl hl2
  rw [← div_le_iff₀' h2p] at hlo
  rw [← le_div_iff₀' h2p] at hhi
  intro value
  simp only [value, pow_units_eq hk k.log2]
  constructor
  · refine exp2Lo_value_le ((floor_units_le _ p).trans ?_)
    rw [exponent_units_eq]
    gcongr
  · refine le_exp2Hi_value (le_trans ?_ (le_ceil_units _ p))
    rw [exponent_units_eq]
    gcongr

end Sys2Proof
end

section
/-! SUPPORT. The properties 00_scope.md R9 asks of POW: on which side of 1.0 it rounds, and the
arguments at which it is exact. -/

namespace Sys2Proof

/-! ### Rounding around 1.0 -/

theorem magOf_one : F32.magOf Config.ONE.low = 2 ^ 149 := by decide

theorem one_low_lt : Config.ONE.low < F32.infLow := by decide

theorem one_low_lt_two_pow : Config.ONE.low < 2 ^ 31 := by decide

section RoundOne

variable {num den : Nat}

theorem roundMag_le_one (hd : 0 < den) (h : num ≤ 2 ^ 149 * den) :
    roundMag num den ≤ Config.ONE.low :=
  roundMag_le_of_le hd one_low_lt (by rwa [magOf_one])

theorem one_le_roundMag (hd : 0 < den) (h : 2 ^ 149 * den ≤ num) :
    Config.ONE.low ≤ roundMag num den :=
  le_roundMag_of_le hd one_low_lt (by rwa [magOf_one])

end RoundOne

theorem mag_le_one_iff {x : F32} (hx : x.low < F32.infLow) :
    x.mag ≤ 2 ^ 149 ↔ x.low ≤ Config.ONE.low := by
  rw [← magOf_one]
  exact magOf_le_magOf hx one_low_lt

theorem one_le_mag_iff {x : F32} (hx : x.low < F32.infLow) :
    2 ^ 149 ≤ x.mag ↔ Config.ONE.low ≤ x.low := by
  rw [← magOf_one]
  exact magOf_le_magOf one_low_lt hx

/-! ### POW at whole eighths -/

/-- The eighth root rounded down. -/
def eighthRoot (a : Nat) : Nat := isqrt (isqrt (isqrt a))

/-- The integer whose eighth root is the power, with `q` fractional bits. -/
def radicandAt (q k n : Nat) : Nat := k ^ n * 2 ^ (149 * 8 + q * 8 - 149 * n)

theorem powEighths_eq (k n : Nat) : powEighths k n =
    roundMag (stickyHalf (eighthRoot (radicandAt rootPrec k n))
      (eighthRoot (radicandAt rootPrec k n) ^ 8 == radicandAt rootPrec k n)) (2 * 2 ^ rootPrec) :=
  rfl

theorem le_eighthRoot {m a : Nat} : m ≤ eighthRoot a ↔ m ^ 8 ≤ a := by
  simp only [eighthRoot, isqrt_eq_sqrt, Nat.le_sqrt]
  rw [show m * m * (m * m) * (m * m * (m * m)) = m ^ 8 by ring]

theorem eighthRoot_pow_le (a : Nat) : eighthRoot a ^ 8 ≤ a := le_eighthRoot.1 le_rfl

theorem eighthRoot_pow (m : Nat) : eighthRoot (m ^ 8) = m := by
  refine le_antisymm ?_ (le_eighthRoot.2 le_rfl)
  exact (Nat.pow_le_pow_iff_left (by decide)).1 (eighthRoot_pow_le _)

/-- A power that is an exact number of fractional steps is rounded from just that number. -/
theorem powEighths_of_radicand {k n m : Nat} (h : radicandAt rootPrec k n = m ^ 8) :
    powEighths k n = roundMag (2 * m) (2 * 2 ^ rootPrec) := by
  rw [powEighths_eq, h, eighthRoot_pow, beq_self_eq_true]
  rfl

theorem two_mul_le_stickyHalf (r : Nat) (exact : Bool) : 2 * r ≤ stickyHalf r exact := by
  cases exact <;> simp [stickyHalf]

/-- The stand-in for an inexact eighth root is above the root but not above a bound of the exact
one. -/
theorem stickyHalf_eighthRoot_le {a m : Nat} (h : a ≤ m ^ 8) :
    stickyHalf (eighthRoot a) (eighthRoot a ^ 8 == a) ≤ 2 * m := by
  have hle := eighthRoot_pow_le a
  rcases eq_or_ne (eighthRoot a ^ 8) a with heq | hne
  · have : eighthRoot a ≤ m := (Nat.pow_le_pow_iff_left (by decide)).1 (hle.trans h)
    simpa [stickyHalf, heq] using this
  · have hlt : eighthRoot a < m :=
      (Nat.pow_lt_pow_iff_left (by decide : 8 ≠ 0)).1 (lt_of_lt_of_le (lt_of_le_of_ne hle hne) h)
    have hsticky : stickyHalf (eighthRoot a) (eighthRoot a ^ 8 == a) = 2 * eighthRoot a + 1 := by
      simp [stickyHalf, hne]
    omega

/-- The radicand of 1.0, at every exponent the fractional bits leave room for. -/
theorem radicandAt_one {q n : Nat} (h : 149 * n ≤ 149 * 8 + q * 8) :
    radicandAt q (2 ^ 149) n = (2 ^ (149 + q)) ^ 8 := by
  rw [radicandAt, ← pow_mul, ← pow_mul, ← pow_add]
  congr 1
  omega

theorem exponent_has_room {n : Nat} (hn : n ≤ 32) : 149 * n ≤ 149 * 8 + rootPrec * 8 := by
  unfold rootPrec
  omega

theorem radicandAt_mono {k m : Nat} (q n : Nat) (h : k ≤ m) : radicandAt q k n ≤ radicandAt q m n :=
  Nat.mul_le_mul_right _ (Nat.pow_le_pow_left h n)

section Eighths

variable {k n : Nat}

theorem two_mul_two_pow_add (q : Nat) : 2 * 2 ^ (149 + q) = 2 ^ 149 * (2 * 2 ^ q) := by
  rw [pow_add]
  ring

theorem two_mul_two_pow_pos (q : Nat) : 0 < 2 * 2 ^ q := by positivity

theorem powEighths_le_one (hk : k ≤ 2 ^ 149) (hn : n ≤ 32) : powEighths k n ≤ Config.ONE.low := by
  rw [powEighths_eq]
  refine roundMag_le_one (two_mul_two_pow_pos _) ?_
  rw [← two_mul_two_pow_add]
  refine stickyHalf_eighthRoot_le ?_
  rw [← radicandAt_one (exponent_has_room hn)]
  exact radicandAt_mono _ n hk

theorem one_le_powEighths (hk : 2 ^ 149 ≤ k) (hn : n ≤ 32) : Config.ONE.low ≤ powEighths k n := by
  rw [powEighths_eq]
  refine one_le_roundMag (two_mul_two_pow_pos _) ?_
  rw [← two_mul_two_pow_add]
  refine (Nat.mul_le_mul_left 2 (le_eighthRoot.2 ?_)).trans (two_mul_le_stickyHalf _ _)
  rw [← radicandAt_one (exponent_has_room hn)]
  exact radicandAt_mono _ n hk

theorem powEighths_zero (k : Nat) : powEighths k 0 = Config.ONE.low := by
  have h : radicandAt rootPrec k 0 = (2 ^ (149 + rootPrec)) ^ 8 := by
    rw [← radicandAt_one (exponent_has_room (Nat.zero_le 32)), radicandAt, radicandAt, pow_zero,
      pow_zero]
  rw [powEighths_of_radicand h, two_mul_two_pow_add, ← magOf_one]
  exact roundMag_magOf one_low_lt (two_mul_two_pow_pos _)

theorem powEighths_eight {low : Nat} (h : low < F32.infLow) :
    powEighths (F32.magOf low) 8 = low := by
  have hrad : radicandAt rootPrec (F32.magOf low) 8 = (F32.magOf low * 2 ^ rootPrec) ^ 8 := by
    rw [radicandAt, mul_pow, ← pow_mul]
    congr 2
  rw [powEighths_of_radicand hrad, Nat.mul_left_comm]
  exact roundMag_magOf h (two_mul_two_pow_pos _)

end Eighths

/-! ### POW through enclosures -/

theorem scaleBy_den_pos (p f : Nat) (n : Int) : 0 < (scaleBy p f n).den := by
  unfold scaleBy
  split <;> positivity

theorem Ratio.round_le_one {r : Ratio} (hd : 0 < r.den) (h : r.value ≤ 2 ^ 149) :
    r.round ≤ Config.ONE.low := by
  refine roundMag_le_one hd ?_
  rw [Ratio.value, div_le_iff₀ (by exact_mod_cast hd)] at h
  exact_mod_cast h

theorem Ratio.one_le_round {r : Ratio} (hd : 0 < r.den) (h : 2 ^ 149 ≤ r.value) :
    Config.ONE.low ≤ r.round := by
  refine one_le_roundMag hd ?_
  rw [Ratio.value, le_div_iff₀ (by exact_mod_cast hd)] at h
  exact_mod_cast h

theorem le_expLo (one y k : Nat) {acc : Nat} (h : one ≤ acc) : one ≤ expLo one y k acc := by
  induction k generalizing acc with
  | zero => exact h
  | succ k ih => exact ih (Nat.le_add_right _ _)

theorem two_pow_le_exp2FracLo (p t : Nat) : 2 ^ p ≤ exp2FracLo p t :=
  le_min (by omega) (le_expLo _ _ _ le_rfl)

/-- The lower bound of a power of two with a nonnegative exponent is at least 1.0. -/
theorem one_le_exp2Lo_value (p : Nat) {y : Int} (hy : 0 ≤ y) : 2 ^ 149 ≤ (exp2Lo p y).value := by
  have hfrac : (1 : ℝ) ≤ exp2FracLo p (y % 2 ^ p).toNat / 2 ^ p := by
    rw [one_le_div (by positivity)]
    exact_mod_cast two_pow_le_exp2FracLo p _
  have hwhole : (1 : ℝ) ≤ (2 : ℝ) ^ ((y / 2 ^ p : Int) : ℝ) :=
    Real.one_le_rpow one_le_two (by exact_mod_cast Int.ediv_nonneg hy (by positivity))
  rw [exp2Lo, scaleBy_value]
  exact le_mul_of_one_le_left (by positivity) (one_le_mul_of_one_le_of_one_le hfrac hwhole)

section PowMag

variable {k cu : Nat}

theorem three_le_of_mem_precisions {p : Nat} (h : p ∈ [96, 192, 384]) : 3 ≤ p := by
  simp only [List.mem_cons, List.not_mem_nil, or_false] at h
  omega

theorem settleAll_powEnclosure_le_one (hk : 0 < k) (hk1 : k ≤ 2 ^ 149) :
    settleAll (powEnclosure k cu) ≤ Config.ONE.low := by
  refine settleAll_of_forall (P := (· ≤ Config.ONE.low)) fun p hp => ?_
  have hsound := (powerEnclosureIsSound k cu p hk (three_le_of_mem_precisions hp)).1
  refine Ratio.round_le_one (scaleBy_den_pos _ _ _) (hsound.trans ?_)
  have hbase : (k : ℝ) / 2 ^ 149 ≤ 1 := (div_le_one (by positivity)).2 (by exact_mod_cast hk1)
  exact mul_le_of_le_one_left (by positivity)
    (Real.rpow_le_one (by positivity) hbase (by positivity))

theorem one_le_settleAll_powEnclosure (hk : 2 ^ 149 ≤ k) :
    Config.ONE.low ≤ settleAll (powEnclosure k cu) := by
  have hlog : 149 ≤ k.log2 := (Nat.le_log2 (by omega)).2 hk
  refine settleAll_of_forall (P := (Config.ONE.low ≤ ·)) fun p _ => ?_
  refine Ratio.one_le_round (scaleBy_den_pos _ _ _) (one_le_exp2Lo_value p ?_)
  have hexp : (0 : Int) ≤ (k.log2 : Int) - 149 := by omega
  positivity

theorem powMag_le_one (hk : 0 < k) (hk1 : k ≤ 2 ^ 149) (hcu : cu ≤ 2 ^ 151) :
    powMag k cu ≤ Config.ONE.low := by
  unfold powMag
  split_ifs
  · exact powEighths_le_one hk1 (by omega)
  · exact settleAll_powEnclosure_le_one hk hk1

theorem one_le_powMag (hk : 2 ^ 149 ≤ k) (hcu : cu ≤ 2 ^ 151) : Config.ONE.low ≤ powMag k cu := by
  unfold powMag
  split_ifs
  · exact one_le_powEighths hk (by omega)
  · exact one_le_settleAll_powEnclosure hk

theorem powMag_le_infLow (k cu : Nat) : powMag k cu ≤ F32.infLow := by
  unfold powMag
  split_ifs
  · exact roundMag_le _ _
  · exact settleAll_of_forall (P := (· ≤ F32.infLow)) fun _ _ => roundMag_le _ _

end PowMag

/-! ### POW -/

section Pow

open Sys2Proof.Machine

variable {x c : F32}

theorem four_nonneg : F32.Nonneg ⟨0x40800000#32⟩ := ⟨by decide, by decide⟩

theorem zero_nonneg : F32.zero.Nonneg := ⟨by decide, by decide⟩

theorem one_nonneg : Config.ONE.Nonneg := ⟨by decide, by decide⟩

theorem powDomain_of_nonneg (hx : x.Nonneg) (hc : F32Within F32.zero ⟨0x40800000#32⟩ c) :
    powDomain x c = true := by
  have hcn := F32.Nonneg.of_within hc four_nonneg.2
  simp [powDomain, hx.finite, (zero_nonneg.le_iff hx).2 (Nat.zero_le _),
    (zero_nonneg.le_iff hcn).2 hc.2.1, (hcn.le_iff four_nonneg).2 hc.2.2]

theorem mag_le_of_within_four (hc : F32Within F32.zero ⟨0x40800000#32⟩ c) : c.mag ≤ 2 ^ 151 := by
  have hcn := F32.Nonneg.of_within hc four_nonneg.2
  exact (hcn.mag_le_iff four_nonneg).2 hc.2.2

theorem POW_zero_base (hx : x.Nonneg) (hc : F32Within F32.zero ⟨0x40800000#32⟩ c)
    (h0 : x.low = 0) : POW x c = F32.zero := by
  rw [POW, if_pos (powDomain_of_nonneg hx hc), if_pos h0]

theorem POW_pos_base (hx : x.Nonneg) (hc : F32Within F32.zero ⟨0x40800000#32⟩ c)
    (h0 : x.low ≠ 0) : POW x c = F32.ofLow false (powMag x.mag c.mag) := by
  rw [POW, if_pos (powDomain_of_nonneg hx hc), if_neg h0]

theorem sign_POW (hx : x.Nonneg) (hc : F32Within F32.zero ⟨0x40800000#32⟩ c) :
    (POW x c).sign = false := by
  by_cases h0 : x.low = 0
  · rw [POW_zero_base hx hc h0]; decide
  · rw [POW_pos_base hx hc h0, sign_ofLow _ (lt_of_le_of_lt (powMag_le_infLow _ _) infLow_lt)]

theorem low_POW (hx : x.Nonneg) (hc : F32Within F32.zero ⟨0x40800000#32⟩ c) (h0 : x.low ≠ 0) :
    (POW x c).low = powMag x.mag c.mag := by
  rw [POW_pos_base hx hc h0, low_ofLow _ (lt_of_le_of_lt (powMag_le_infLow _ _) infLow_lt)]

theorem low_POW_le_one (hx : x.Nonneg) (hc : F32Within F32.zero ⟨0x40800000#32⟩ c)
    (h : x.low ≤ Config.ONE.low) : (POW x c).low ≤ Config.ONE.low := by
  by_cases h0 : x.low = 0
  · rw [POW_zero_base hx hc h0]; decide
  · rw [low_POW hx hc h0]
    exact powMag_le_one (hx.mag_pos (by omega)) ((mag_le_one_iff hx.2).2 h)
      (mag_le_of_within_four hc)

theorem one_le_low_POW (hx : x.Nonneg) (hc : F32Within F32.zero ⟨0x40800000#32⟩ c)
    (h : Config.ONE.low ≤ x.low) : Config.ONE.low ≤ (POW x c).low := by
  have h1 : 0 < Config.ONE.low := by decide
  rw [low_POW hx hc (by omega)]
  exact one_le_powMag ((one_le_mag_iff hx.2).2 h) (mag_le_of_within_four hc)

theorem low_POW_le_infLow (hx : x.Nonneg) (hc : F32Within F32.zero ⟨0x40800000#32⟩ c)
    (h0 : x.low ≠ 0) : (POW x c).low ≤ F32.infLow := by
  rw [low_POW hx hc h0]
  exact powMag_le_infLow _ _

/-- The exponent 1.0 is eight eighths. -/
theorem POW_one (hx : x.Nonneg) : POW x Config.ONE = x := by
  have hc : F32Within F32.zero ⟨0x40800000#32⟩ Config.ONE := ⟨by decide, by decide, by decide⟩
  refine F32.ext_low ((sign_POW hx hc).trans hx.1.symm) ?_
  by_cases h0 : x.low = 0
  · rw [POW_zero_base hx hc h0, h0]; decide
  · have hone : Config.ONE.mag = 2 ^ 149 := magOf_one
    rw [low_POW hx hc h0, hone, powMag, if_pos (by decide)]
    exact powEighths_eight hx.2

/-- The exponent 0 is no eighth. -/
theorem POW_zero (hx : x.Nonneg) (h0 : x.low ≠ 0) : POW x F32.zero = Config.ONE := by
  have hc : F32Within F32.zero ⟨0x40800000#32⟩ F32.zero := ⟨by decide, by decide, by decide⟩
  refine F32.ext_low ((sign_POW hx hc).trans one_nonneg.1.symm) ?_
  have hzero : F32.zero.mag = 0 := magOf_zero
  rw [low_POW hx hc h0, hzero, powMag, if_pos (by decide)]
  exact powEighths_zero _

/-- A power of 1.0 is on both sides of 1.0. -/
theorem POW_one_base (hc : F32Within F32.zero ⟨0x40800000#32⟩ c) :
    POW Config.ONE c = Config.ONE :=
  F32.ext_low ((sign_POW one_nonneg hc).trans one_nonneg.1.symm)
    (le_antisymm (low_POW_le_one one_nonneg hc le_rfl) (one_le_low_POW one_nonneg hc le_rfl))

end Pow

/-- Settles O55: a base at most 1.0 keeps the exact power at most 1.0, and one at least 1.0 keeps
the lower bound at least 1.0. -/
theorem powKeepsToItsSideOfOne : Obligations.PowKeepsToItsSideOfOne := by
  intro x c hs hf hc
  have hx : x.Nonneg := ⟨hs, low_lt_of_isFinite hf⟩
  refine ⟨fun h => ⟨sign_POW hx hc, Nat.zero_le _, low_POW_le_one hx hc h⟩, fun h => ?_⟩
  have h0 : 0 < Config.ONE.low := by decide
  refine F32.le_iff.2 ⟨one_nonneg.not_nan,
    isNaN_eq_false (low_POW_le_infLow hx hc (by omega)), ?_⟩
  rw [one_nonneg.ord_eq, F32.ord, sign_POW hx hc, if_neg (by decide)]
  exact_mod_cast one_le_low_POW hx hc h

/-- Settles O54: the exponents 1.0 and 0 are whole eighths, where the root is exact, and a power
of 1.0 is both at most and at least 1.0. -/
theorem powMeetsItsIdentities : Obligations.PowMeetsItsIdentities := by
  intro x c hs hf hc
  have hx : x.Nonneg := ⟨hs, low_lt_of_isFinite hf⟩
  exact ⟨POW_one hx, POW_zero hx, POW_one_base hc, POW_zero_base zero_nonneg hc rfl⟩

end Sys2Proof
end

section
/-! SUPPORT. The oddness and the bounds 00_scope.md R9 asks of TANH and SIN. -/

namespace Sys2Proof

/-! ### Signs, and the magnitudes both functions give back -/

theorem sign_neg (x : F32) : x.neg.sign = !x.sign := sign_ofLow _ (low_lt x)

theorem low_neg (x : F32) : x.neg.low = x.low := low_ofLow _ (low_lt x)

theorem neg_ofLow (neg : Bool) {low : Nat} (h : low < 2 ^ 31) :
    (F32.ofLow neg low).neg = F32.ofLow (!neg) low := by
  rw [F32.neg, sign_ofLow _ h, low_ofLow _ h]

/-- Magnitudes that TANH and SIN give back are at most 1.0. -/
theorem low_le_one_of_tiny {low : Nat} (h : low < F32.infLow) (ht : F32.magOf low ≤ tinyMag) :
    low ≤ Config.ONE.low := by
  refine (magOf_le_magOf h one_low_lt).1 (ht.trans ?_)
  rw [magOf_one]
  exact Nat.pow_le_pow_right (by decide) (by decide)

/-! ### TANH -/

/-- The magnitude pattern TANH gives a magnitude pattern that is not NaN. -/
def tanhLow (low : Nat) : Nat :=
  if low = F32.infLow then Config.ONE.low
  else if F32.magOf low ≤ tinyMag then low
  else tanhMag (F32.magOf low)

theorem TANH_eq_ofLow {x : F32} (h : x.isNaN = false) :
    TANH x = F32.ofLow x.sign (tanhLow x.low) := by
  rw [TANH, if_neg (by simp [h])]
  by_cases hinf : x.low = F32.infLow
  · rw [if_pos (show x.isInf = true from decide_eq_true hinf), tanhLow, if_pos hinf]
    rfl
  rw [if_neg (by simpa [F32.isInf] using hinf), tanhLow, if_neg hinf, ← F32.mag]
  by_cases ht : x.mag ≤ tinyMag
  · rw [if_pos ht, if_pos ht, ofLow_sign_low]
  · rw [if_neg ht, if_neg ht]

/-- `(e - 1) / (e + 1)` rounds to at most 1.0, however coarse the bound of `e`. -/
theorem tanhEnclosure_lo_round_le_one (k p : Nat) :
    (tanhEnclosure k p).lo.round ≤ Config.ONE.low := by
  have hquot : ∀ e, roundMag ((e - 2 ^ p) * 2 ^ 149) (e + 2 ^ p) ≤ Config.ONE.low := fun e => by
    have hp := Nat.two_pow_pos p
    refine roundMag_le_one (by omega) ?_
    rw [Nat.mul_comm]
    exact Nat.mul_le_mul_left _ (by omega)
  exact hquot _

theorem tanhMag_le_one (k : Nat) : tanhMag k ≤ Config.ONE.low := by
  unfold tanhMag
  split_ifs
  · decide
  · exact settleAll_of_forall (P := (· ≤ Config.ONE.low)) fun p _ =>
      tanhEnclosure_lo_round_le_one k p

theorem tanhLow_le_one {low : Nat} (h : low ≤ F32.infLow) : tanhLow low ≤ Config.ONE.low := by
  unfold tanhLow
  split_ifs with hinf htiny
  · exact le_rfl
  · exact low_le_one_of_tiny (lt_of_le_of_ne h hinf) htiny
  · exact tanhMag_le_one _

theorem tanhLow_zero : tanhLow 0 = 0 := by decide

/-! ### SIN -/

theorem alternating_lo_le {one wLo wHi k lo hi : Nat} {d : Nat → Nat} (h : lo ≤ one) :
    (alternating one wLo wHi d k lo hi).lo ≤ one := by
  induction k generalizing lo hi with
  | zero => exact h
  | succ k ih => exact ih (Nat.sub_le _ _)

theorem fixedRatio_round_le_one {p n : Nat} (h : n ≤ 2 ^ p) :
    (fixedRatio p n).round ≤ Config.ONE.low := by
  refine roundMag_le_one (Nat.two_pow_pos p) ?_
  show n * 2 ^ 149 ≤ 2 ^ 149 * 2 ^ p
  rw [Nat.mul_comm]
  exact Nat.mul_le_mul_left _ h

theorem settleAll_sinEnclosure_le_one (t : QuarterTurns) :
    settleAll (sinEnclosure t) ≤ Config.ONE.low := by
  refine settleAll_of_forall (P := (· ≤ Config.ONE.low)) fun p _ => fixedRatio_round_le_one ?_
  split_ifs
  · exact Nat.min_le_left _ _
  · exact alternating_lo_le (Nat.zero_le _)

theorem low_SIN_le_one {x : F32} (h : x.isFinite = true) : (SIN x).low ≤ Config.ONE.low := by
  rw [SIN, if_pos h]
  split_ifs with htiny
  · exact low_le_one_of_tiny (low_lt_of_isFinite h) htiny
  · rw [low_ofLow _ (settleAll_lt _)]
    exact settleAll_sinEnclosure_le_one _

/-! ### Both -/

/-- Settles O57: TANH keeps the sign and takes the magnitude pattern to one of at most 1.0. -/
theorem tanhIsOddAndTanhAndSinAreBounded : Obligations.TanhIsOddAndTanhAndSinAreBounded := by
  intro x
  refine ⟨fun h => if_pos h, fun h => ?_, fun h => ?_, fun h => ?_, low_SIN_le_one⟩
  · have hle : tanhLow x.low ≤ Config.ONE.low := tanhLow_le_one (by simpa [F32.isNaN] using h)
    have hlt := lt_of_le_of_lt hle one_low_lt_two_pow
    rw [TANH_eq_ofLow h, TANH_eq_ofLow (by rwa [isNaN_neg]), sign_neg, low_neg, neg_ofLow _ hlt,
      low_ofLow _ hlt]
    exact ⟨rfl, hle⟩
  · rw [TANH_eq_ofLow (isNaN_eq_false (by omega)), h, tanhLow_zero, ← h, ofLow_sign_low]
  · have hinf : x.low = F32.infLow := of_decide_eq_true h
    rw [TANH_eq_ofLow (isNaN_eq_false hinf.le), hinf]
    cases x.sign <;> decide

end Sys2Proof
end

section
/-! SUPPORT. EXP2 at the whole exponents of 00_scope.md R9. -/

namespace Sys2Proof

theorem cdiv_zero {b : Nat} (hb : 0 < b) : cdiv 0 b = 0 := by
  rw [cdiv, Nat.zero_add]
  exact Nat.div_eq_of_lt (by omega)

theorem expLo_zero (one k : Nat) : expLo one 0 k one = one := by
  induction k with
  | zero => rfl
  | succ k ih => simpa [expLo] using ih

theorem expHi_zero {one : Nat} (h1 : 0 < one) (k acc : Nat) : expHi one 0 (k + 1) acc = one := by
  induction k generalizing acc with
  | zero => simp [expHi, cdiv_zero, h1]
  | succ k ih => rw [expHi, ih]

theorem exp2FracLo_zero (p : Nat) : exp2FracLo p 0 = 2 ^ p := by
  rw [exp2FracLo, Nat.zero_mul, Nat.zero_div, expLo_zero]
  omega

theorem exp2FracHi_zero {p : Nat} (hp : 4 ≤ p) : exp2FracHi p 0 = 2 ^ p := by
  obtain ⟨j, hj⟩ : ∃ j, p / 4 = j + 1 := ⟨p / 4 - 1, by omega⟩
  rw [exp2FracHi, Nat.zero_mul, cdiv_zero (Nat.two_pow_pos _), hj, expHi_zero (Nat.two_pow_pos p)]
  omega

/-- Both bounds of a power of two with a whole exponent are that power. -/
theorem exp2Enclosure_whole (n : Int) {p : Nat} (hp : 4 ≤ p) :
    exp2Enclosure (n * 2 ^ 149) p = ⟨scaleBy p (2 ^ p) n, scaleBy p (2 ^ p) n⟩ := by
  have hunits : n * 2 ^ 149 * 2 ^ p = n * 2 ^ p * 2 ^ 149 := mul_right_comm _ _ _
  have hp0 : (2 : Int) ^ p ≠ 0 := by positivity
  have hfloor : n * 2 ^ 149 * 2 ^ p / 2 ^ 149 = n * 2 ^ p := by
    rw [hunits, Int.mul_ediv_cancel _ (by positivity)]
  have hceil : cdivInt (n * 2 ^ 149 * 2 ^ p) (2 ^ 149) = n * 2 ^ p := by
    rw [cdivInt, hunits, ← Int.neg_mul, Int.mul_ediv_cancel _ (by positivity), Int.neg_neg]
  rw [exp2Enclosure, hfloor, hceil, exp2Lo, exp2Hi, Int.mul_emod_left, Int.mul_ediv_cancel _ hp0,
    Int.toNat_zero, exp2FracLo_zero, exp2FracHi_zero hp]

theorem exp2Mag_whole (n : Int) : exp2Mag (n * 2 ^ 149) = (scaleBy 96 (2 ^ 96) n).round := by
  rw [exp2Mag, settleAll, settle, exp2Enclosure_whole n (by decide)]
  exact if_pos rfl

/-- The normal powers of two are patterns with an empty fraction field. -/
theorem exp2Mag_normal (e : Nat) (he : e < 253) :
    exp2Mag (((e : Int) - 126) * 2 ^ 149) = (e + 1) * 2 ^ 23 := by
  have hscale : scaleBy 96 (2 ^ 96) ((e : Int) - 126) = ⟨2 ^ 96 * 2 ^ (e + 23), 2 ^ 96⟩ := by
    rw [scaleBy, show (e : Int) - 126 + 149 = Int.ofNat (e + 23) by simp; omega]
  have hmag : F32.magOf ((e + 1) * 2 ^ 23) = 2 ^ (e + 23) := by
    rw [magOf_succ (e := e) (by omega), Nat.mul_mod_left, pow_add, Nat.add_zero, Nat.mul_comm]
  have hlow : (e + 1) * 2 ^ 23 < F32.infLow := by
    unfold F32.infLow
    omega
  rw [exp2Mag_whole, hscale, ← roundMag_magOf hlow (Nat.two_pow_pos 96), hmag, Nat.mul_comm]
  rfl

/-- The integers of R9 are exact binary32 values. -/
theorem ofInt_small (k : Fin 21) : (F32.ofInt ((k.val : Int) - 10)).isFinite = true ∧
    (F32.ofInt ((k.val : Int) - 10)).val = (((k.val + 116 : Nat) : Int) - 126) * 2 ^ 149 := by
  revert k
  decide +kernel

/-- Settles O56: at a whole exponent both bounds are the power, which is a pattern. -/
theorem exp2OfSmallIntegersIsExact : Obligations.Exp2OfSmallIntegersIsExact := by
  intro k
  obtain ⟨hf, hval⟩ := ofInt_small k
  have hk := k.isLt
  have hwhole : (F32.ofInt ((k.val : Int) - 10)).val / 2 ^ 149 = (k.val : Int) - 10 := by
    rw [hval, Int.mul_ediv_cancel _ (by positivity)]
    omega
  rw [EXP2, if_pos hf, hwhole, if_neg (by omega), if_neg (by omega), hval,
    exp2Mag_normal _ (by omega), show k.val + 116 + 1 = 117 + k.val by omega]
  rfl

end Sys2Proof
end

section
/-! SUPPORT. Everything a command can do to the block, said once: one relation per unit kind for
what its commands leave in the unit they name, and `Effect` for the whole state. The frame
statements here and the invariant below are case analyses of it. -/

namespace Sys2Proof.Machine

/-- What an ENV command can leave in the envelope it names (40_envelope.md R111 to R120). -/
inductive EnvWrite (e : EnvUnit) : EnvUnit → Prop where
  | init (d : F32) : EnvWrite e (envInitBody d)
  | attackTime (d : F32) : EnvWrite e { e with attackTime := timeOperand d }
  | attackAdd (d : F32) : EnvWrite e { e with attackAdd := addOperand d }
  | decayTime (d : F32) : EnvWrite e { e with decayTime := timeOperand d }
  | decayAdd (d : F32) : EnvWrite e { e with decayAdd := addOperand d }
  | outputScale (d : F32) : EnvWrite e { e with outputScale := unitOperand d }
  | curveExponent (d : F32) : EnvWrite e { e with curveExponent := curveOperand d }
  | triggered : EnvWrite e (envTriggered e)
  | released : EnvWrite e (envReleased e)
  | sample : EnvWrite e (envSample e)

/-- What an OSC command can leave in the oscillator it names (41_oscillator.md R151 to R158). -/
inductive OscWrite (o : OscUnit) : OscUnit → Prop where
  | init (d : F32) : OscWrite o (oscInitBody d)
  | note (note : BitVec 7) : OscWrite o (oscWithNote o note)
  | frequency (hz : F32) : OscWrite o (oscWithFrequency o hz)
  | amplitude (d : F32) : OscWrite o { o with amplitude := unitOperand d }
  | detune (d : F32) : OscWrite o (oscWithDetune o d)
  | mode (mode : OscMode) : OscWrite o { o with mode := mode }
  | advanced : OscWrite o (advanceAll o)

/-- What an FLT command can leave in the filter it names (42_filter.md R201 to R208). -/
inductive FltWrite (f : FltUnit) : FltUnit → Prop where
  | init : FltWrite f fltInitBody
  | cutoffPosition (d : F32) : FltWrite f { f with cutoffPosition := unitOperand d }
  | cutoffAddition (d : F32) : FltWrite f { f with cutoffAddition := d }
  | resonancePosition (d : F32) : FltWrite f { f with resonancePosition := unitOperand d }
  | filtered (x : F32) (c : Entry) : FltWrite f (svfStep f x c)
  | interp (mode : Lookup) : FltWrite f { f with interp := mode }

/-- `Effect s i t`: the command `i` run in `s` can leave the block in `t`. The values of the answers,
and which write of its unit kind a command makes, are left open. -/
inductive Effect (s : State) : Instr → State → Prop where
  | illegal {i : Instr} : Effect s i (setIllegal s)
  | idle : Effect s .sysNop s
  | cleared : Effect s .sysClrStatus { s with status := statusCleared }
  | reset : Effect s .sysReset (resetBlock s)
  | answer {i : Instr} (hw : writesResp0 i = true) (w : Word) : Effect s i (respond0 s w)
  | env {i : Instr} {n : InstNo} {e : EnvUnit} (ht : target i = .env n)
      (hn : n.toNat < Config.NUM_ENV) (he : EnvWrite s.env[n.toNat] e) : Effect s i (setEnv s n e)
  | envProcess {n : InstNo} {e : EnvUnit} (hn : n.toNat < Config.NUM_ENV)
      (he : EnvWrite s.env[n.toNat] e) (w : Word) :
      Effect s (.envProcess n) (respond0 (setEnv s n e) w)
  | osc {i : Instr} {n : InstNo} {o : OscUnit} (ht : target i = .osc n)
      (hn : n.toNat < Config.NUM_OSC) (ho : OscWrite s.osc[n.toNat] o) : Effect s i (setOsc s n o)
  | oscProcess {n : InstNo} {o : OscUnit} (hn : n.toNat < Config.NUM_OSC)
      (ho : OscWrite s.osc[n.toNat] o) (w0 w1 : Word) :
      Effect s (.oscProcess n) (respondBoth (setOsc s n o) w0 w1)
  | flt {i : Instr} {n : InstNo} {f : FltUnit} (ht : target i = .flt n)
      (hn : n.toNat < Config.NUM_FLT) (hf : FltWrite s.flt[n.toNat] f) : Effect s i (setFlt s n f)
  | fltInit {n : InstNo} {f : FltUnit} (d : F32) (hn : n.toNat < Config.NUM_FLT)
      (hf : FltWrite s.flt[n.toNat] f) :
      Effect s (.fltInit n d) (setFlt (rebuildTable s (rateOperand d)) n f)
  | fltProcess {n : InstNo} {f : FltUnit} (x : F32) (hn : n.toNat < Config.NUM_FLT)
      (hf : FltWrite s.flt[n.toNat] f) (w : Word) :
      Effect s (.fltProcess n x) (respond0 (setFlt s n f) w)

section Selection

variable {n : InstNo} {i : Instr} {s t : State}

theorem effect_of_withEnv {f : EnvUnit → State}
    (h : withEnv n s (fun e => .next (f e)) = .next t)
    (hf : ∀ hn : n.toNat < Config.NUM_ENV, Effect s i (f s.env[n.toNat])) : Effect s i t := by
  obtain ⟨hn, hk⟩ | ⟨-, hk⟩ := withEnv_cases h <;> cases hk
  · exact hf hn
  · exact .illegal

theorem effect_of_withOsc {f : OscUnit → State}
    (h : withOsc n s (fun o => .next (f o)) = .next t)
    (hf : ∀ hn : n.toNat < Config.NUM_OSC, Effect s i (f s.osc[n.toNat])) : Effect s i t := by
  obtain ⟨hn, hk⟩ | ⟨-, hk⟩ := withOsc_cases h <;> cases hk
  · exact hf hn
  · exact .illegal

theorem effect_of_withFlt {f : FltUnit → State}
    (h : withFlt n s (fun u => .next (f u)) = .next t)
    (hf : ∀ hn : n.toNat < Config.NUM_FLT, Effect s i (f s.flt[n.toNat])) : Effect s i t := by
  obtain ⟨hn, hk⟩ | ⟨-, hk⟩ := withFlt_cases h <;> cases hk
  · exact hf hn
  · exact .illegal

/-- `FLT.PROCESS` is the one command that can stop: it goes on only with coefficients. -/
theorem effect_of_fltProcess {x : F32} (h : execFltProcess n x s = .next t) :
    Effect s (.fltProcess n x) t := by
  obtain ⟨hn, hk⟩ | ⟨-, hk⟩ := withFlt_cases h
  · split at hk <;> cases hk
    exact .fltProcess x hn (.filtered x _) _
  · cases hk
    exact .illegal

end Selection

/-- Every command that does not stop has one of the effects listed. -/
theorem exec_effect {i : Instr} {s t : State} (h : exec i s = .next t) : Effect s i t := by
  unfold exec at h
  cases i with
  | sysNop => cases h; exact .idle
  | sysRdStatus => cases h; exact .answer rfl _
  | sysClrStatus => cases h; exact .cleared
  | sysReset => cases h; exact .reset
  | envInit n d => exact effect_of_withEnv h fun hn => .env rfl hn (.init d)
  | envSetAttack n d => exact effect_of_withEnv h fun hn => .env rfl hn (.attackTime d)
  | envAddAttack n d => exact effect_of_withEnv h fun hn => .env rfl hn (.attackAdd d)
  | envSetDecay n d => exact effect_of_withEnv h fun hn => .env rfl hn (.decayTime d)
  | envAddDecay n d => exact effect_of_withEnv h fun hn => .env rfl hn (.decayAdd d)
  | envSetScale n d => exact effect_of_withEnv h fun hn => .env rfl hn (.outputScale d)
  | envSetCurve n d => exact effect_of_withEnv h fun hn => .env rfl hn (.curveExponent d)
  | envTrigger n => exact effect_of_withEnv h fun hn => .env rfl hn .triggered
  | envRelease n => exact effect_of_withEnv h fun hn => .env rfl hn .released
  | envProcess n => exact effect_of_withEnv h fun hn => .envProcess hn .sample _
  | envGetLast n => exact effect_of_withEnv h fun _ => .answer rfl _
  | envGetStage n => exact effect_of_withEnv h fun _ => .answer rfl _
  | oscInit n d => exact effect_of_withOsc h fun hn => .osc rfl hn (.init d)
  | oscSetNote n note => exact effect_of_withOsc h fun hn => .osc rfl hn (.note note)
  | oscSetFreq n hz => exact effect_of_withOsc h fun hn => .osc rfl hn (.frequency hz)
  | oscSetAmp n d => exact effect_of_withOsc h fun hn => .osc rfl hn (.amplitude d)
  | oscSetDetune n d => exact effect_of_withOsc h fun hn => .osc rfl hn (.detune d)
  | oscProcess n => exact effect_of_withOsc h fun hn => .oscProcess hn .advanced _ _
  | oscSetMode n mode => exact effect_of_withOsc h fun hn => .osc rfl hn (.mode mode)
  | fltInit n d => exact effect_of_withFlt h fun hn => .fltInit d hn .init
  | fltSetFreq n d => exact effect_of_withFlt h fun hn => .flt rfl hn (.cutoffPosition d)
  | fltAddFreq n d => exact effect_of_withFlt h fun hn => .flt rfl hn (.cutoffAddition d)
  | fltSetQ n d => exact effect_of_withFlt h fun hn => .flt rfl hn (.resonancePosition d)
  | fltGetFreq n => exact effect_of_withFlt h fun _ => .answer rfl _
  | fltGetQ n => exact effect_of_withFlt h fun _ => .answer rfl _
  | fltProcess n x => exact effect_of_fltProcess h
  | fltSetLookup n mode => exact effect_of_withFlt h fun hn => .flt rfl hn (.interp mode)

/-! ### What no effect changes -/

section Frame

variable {i : Instr} {s t : State}

/-- A command keeps STATUS, sets `ILLEGAL` in it, or is one of the two that clear it. -/
theorem Effect.status (h : Effect s i t) :
    t.status = s.status ∨ t.status = statusSetIllegal s.status ∨
      ((i = .sysClrStatus ∨ i = .sysReset) ∧ t.status = 0x00000000#32) := by
  cases h with
  | illegal => exact .inr (.inl rfl)
  | cleared => exact .inr (.inr ⟨.inl rfl, rfl⟩)
  | reset => exact .inr (.inr ⟨.inr rfl, rfl⟩)
  | _ => exact .inl rfl

theorem Effect.env_of_ne (h : Effect s i t) (hr : i ≠ .sysReset) (m : Fin Config.NUM_ENV)
    (hm : ∀ n, target i = .env n → n.toNat ≠ m) : t.env[m] = s.env[m] := by
  cases h with
  | reset => exact absurd rfl hr
  | env ht => exact (setEnv_getElem s _ _ _ m.isLt).trans (if_neg (hm _ ht))
  | envProcess => exact (setEnv_getElem s _ _ _ m.isLt).trans (if_neg (hm _ rfl))
  | _ => rfl

theorem Effect.osc_of_ne (h : Effect s i t) (hr : i ≠ .sysReset) (m : Fin Config.NUM_OSC)
    (hm : ∀ n, target i = .osc n → n.toNat ≠ m) : t.osc[m] = s.osc[m] := by
  cases h with
  | reset => exact absurd rfl hr
  | osc ht => exact (setOsc_getElem s _ _ _ m.isLt).trans (if_neg (hm _ ht))
  | oscProcess => exact (setOsc_getElem s _ _ _ m.isLt).trans (if_neg (hm _ rfl))
  | _ => rfl

theorem Effect.flt_of_ne (h : Effect s i t) (hr : i ≠ .sysReset) (m : Fin Config.NUM_FLT)
    (hm : ∀ n, target i = .flt n → n.toNat ≠ m) : t.flt[m] = s.flt[m] := by
  cases h with
  | reset => exact absurd rfl hr
  | flt ht => exact (setFlt_getElem s _ _ _ m.isLt).trans (if_neg (hm _ ht))
  | fltInit => exact (setFlt_getElem (rebuildTable s _) _ _ _ m.isLt).trans (if_neg (hm _ rfl))
  | fltProcess => exact (setFlt_getElem s _ _ _ m.isLt).trans (if_neg (hm _ rfl))
  | _ => rfl

theorem Effect.resp0_of_not_writes (h : Effect s i t) (hw : writesResp0 i = false) :
    t.resp0 = s.resp0 := by
  cases h with
  | reset | envProcess | oscProcess | fltProcess => exact absurd hw (by simp [writesResp0])
  | answer ha => exact absurd (ha.symm.trans hw) (by decide)
  | _ => rfl

theorem Effect.resp1_of_not_writes (h : Effect s i t) (hr : i ≠ .sysReset)
    (hp : ∀ n, i ≠ .oscProcess n) : t.resp1 = s.resp1 := by
  cases h with
  | reset => exact absurd rfl hr
  | oscProcess => exact absurd rfl (hp _)
  | _ => rfl

theorem Effect.port (h : Effect s i t) : t.port = s.port := by
  cases h <;> rfl

end Frame

/-- Settles O13: STATUS is kept, has `ILLEGAL` set, or is cleared by one of the two. -/
theorem illegalBitIsSticky : Obligations.IllegalBitIsSticky := by
  intro i s t h
  obtain hs | hs | ⟨hi, hs⟩ := (exec_effect h).status
  · exact ⟨fun h1 h0 => absurd (h1.symm.trans (hs ▸ h0)) (by decide), fun k _ hk => hs ▸ hk⟩
  · rw [hs]
    exact ⟨by simp [statusSetIllegal], fun k hk => by simp [statusSetIllegal, hk]⟩
  · simp [hs, hi]

/-- Settles O47: every effect but reset writes at most the unit the command names. -/
theorem commandsKeepOtherInstances : Obligations.CommandsKeepOtherInstances := fun _ _ _ h hr =>
  ⟨(exec_effect h).env_of_ne hr, (exec_effect h).osc_of_ne hr, (exec_effect h).flt_of_ne hr⟩

/-- Settles O48: only the effects that answer write a response, and none writes the port. -/
theorem responsesChangeOnlyByAnswers : Obligations.ResponsesChangeOnlyByAnswers := fun _ _ _ h =>
  ⟨(exec_effect h).resp0_of_not_writes, (exec_effect h).resp1_of_not_writes, (exec_effect h).port⟩

end Sys2Proof.Machine
end

section
/-! SUPPORT. Ranges of binary32 results: an operation whose exact result lies between two patterns
rounds to a pattern between them, and a quotient is below 1.0 exactly when its dividend is below its
divisor. -/

namespace Sys2Proof

open Sys2Proof.Machine

section Within

variable {x y z lo hi : F32}

/-- The magnitudes of a range with a finite upper end. -/
theorem Machine.F32Within.mag_le (h : F32Within lo hi x) (hh : hi.low < F32.infLow) :
    lo.mag ≤ x.mag ∧ x.mag ≤ hi.mag := by
  have hx := h.2.2.trans_lt hh
  exact ⟨(magOf_le_magOf (h.2.1.trans_lt hx) hx).2 h.2.1, (magOf_le_magOf hx hh).2 h.2.2⟩

theorem Machine.F32Within.weaken {lo' hi' : F32} (h : F32Within lo hi x) (hl : lo'.low ≤ lo.low)
    (hh : hi.low ≤ hi'.low) : F32Within lo' hi' x :=
  ⟨h.1, hl.trans h.2.1, h.2.2.trans hh⟩

/-- A result with the sign of +0.0 and the magnitude of a rounded rational lies where the rational
does. -/
theorem within_of_round {num den : Nat} (hs : z.sign = false) (hz : z.low = roundMag num den)
    (hd : 0 < den) (hlo : lo.low < F32.infLow) (hhi : hi.low < F32.infLow)
    (h1 : lo.mag * den ≤ num) (h2 : num ≤ hi.mag * den) : F32Within lo hi z :=
  ⟨hs, hz ▸ le_roundMag_of_le hd hlo h1, hz ▸ roundMag_le_of_le hd hhi h2⟩

theorem add_within (hx : x.Nonneg) (hy : y.Nonneg) (hlo : lo.low < F32.infLow)
    (hhi : hi.low < F32.infLow) (h1 : lo.mag ≤ x.mag + y.mag) (h2 : x.mag + y.mag ≤ hi.mag) :
    F32Within lo hi (F32.add x y) :=
  within_of_round (add_nonneg_spec hx hy).1 (add_nonneg_spec hx hy).2 Nat.one_pos hlo hhi
    (by omega) (by omega)

/-- A share in [0, 1] of a value is at most the value's upper bound. -/
theorem mul_unit_within (hx : F32Within F32.zero Config.ONE x) (hy : F32Within lo hi y)
    (hhi : hi.low < F32.infLow) : F32Within F32.zero hi (F32.mul x y) := by
  obtain ⟨-, hx1⟩ := hx.mag_le one_low_lt
  obtain ⟨-, hy1⟩ := hy.mag_le hhi
  obtain ⟨hs, hl⟩ := mul_nonneg_spec (.of_within hx one_low_lt) (.of_within hy hhi)
  refine within_of_round hs hl (by positivity) zero_nonneg.2 hhi ?_ ?_
  · rw [F32.mag, show F32.zero.low = 0 from rfl, magOf_zero, Nat.zero_mul]
    exact Nat.zero_le _
  · rw [Nat.mul_comm hi.mag]
    exact Nat.mul_le_mul (hx1.trans_eq magOf_one) hy1

/-- `1.0 - x` of a value in [0, 1]. -/
theorem one_sub_within (hx : F32Within F32.zero Config.ONE x) :
    F32Within F32.zero Config.ONE (F32.sub Config.ONE x) := by
  obtain ⟨hs, hl⟩ := sub_nonneg_spec one_nonneg (.of_within hx one_low_lt) hx.2.2
  exact within_of_round hs hl Nat.one_pos zero_nonneg.2 one_low_lt (Nat.zero_le _) (by omega)

theorem min1_within (hx : x.Nonneg) : F32Within F32.zero Config.ONE (F32.min1 x) := by
  unfold F32.min1
  split_ifs with h
  · exact ⟨by decide, by decide, by decide⟩
  · exact ⟨hx.1, Nat.zero_le _, not_lt.1 fun hlt => h ((one_nonneg.lt_iff hx).2 hlt)⟩

end Within

/-! ### A pattern and the one before it -/

/-- A magnitude pattern and its predecessor lie `n` and `n - 1` steps of one size above zero. -/
theorem magOf_pred_steps {low : Nat} (h : 0 < low) : ∃ s n,
    0 < n ∧ n ≤ 2 ^ 24 ∧ (s = 0 → n = low) ∧ (s = 0 ∨ 2 ^ 23 < n) ∧
    F32.magOf low = n * 2 ^ s ∧ F32.magOf (low - 1) = (n - 1) * 2 ^ s := by
  obtain ⟨s, hs⟩ : ∃ s, s = (low - 1) / 2 ^ 23 - 1 := ⟨_, rfl⟩
  obtain ⟨n, hlow⟩ : ∃ n, low = s * 2 ^ 23 + n := ⟨low - s * 2 ^ 23, by omega⟩
  have hpred : low - 1 = s * 2 ^ 23 + (n - 1) := by omega
  refine ⟨s, n, by omega, by omega, by omega, by omega, ?_, ?_⟩
  · rw [hlow]
    exact magOf_steps (by omega) (by omega)
  · rw [hpred]
    exact magOf_steps (by omega) (by omega)

/-- The predecessor of a pattern is smaller by at least one part in 2^24. -/
theorem magOf_pred_le {low : Nat} (h : 0 < low) :
    F32.magOf (low - 1) * 2 ^ 24 ≤ (2 ^ 24 - 1) * F32.magOf low := by
  obtain ⟨s, n, hn, hn24, -, -, hlow, hpred⟩ := magOf_pred_steps h
  rw [hlow, hpred, Nat.mul_right_comm, ← Nat.mul_assoc]
  exact Nat.mul_le_mul_right _ (by omega)

/-- The predecessor of a pattern from the fourth on is at least three quarters of it. -/
theorem three_magOf_le_pred {low : Nat} (h : 4 ≤ low) :
    3 * F32.magOf low ≤ 4 * F32.magOf (low - 1) := by
  obtain ⟨s, n, hn, -, hs, hs', hlow, hpred⟩ := magOf_pred_steps (show 0 < low by omega)
  rw [hlow, hpred, ← Nat.mul_assoc, ← Nat.mul_assoc]
  exact Nat.mul_le_mul_right _ (by omega)

theorem magOf_pred_one : F32.magOf (Config.ONE.low - 1) = (2 ^ 24 - 1) * 2 ^ 125 := by decide

/-- A quotient rounds below 1.0 exactly when the dividend is below the divisor. -/
theorem low_div_lt_one_iff {x y : F32} (hx : x.Nonneg) (hy : y.Nonneg) (h0 : 0 < y.low) :
    (F32.div x y).low < Config.ONE.low ↔ x.low < y.low := by
  have hd : 0 < y.mag := hy.mag_pos h0
  rw [(div_nonneg_spec hx hy h0).2]
  constructor
  · refine lt_imp_lt_of_le_imp_le fun hle => one_le_roundMag hd ?_
    rw [Nat.mul_comm]
    exact Nat.mul_le_mul_right _ ((hy.mag_le_iff hx).2 hle)
  · intro hlt
    have hpred : x.mag ≤ F32.magOf (y.low - 1) :=
      (magOf_le_magOf hx.2 (by have := hy.2; omega)).2 (by omega)
    refine Nat.lt_of_le_pred (by decide) (roundMag_le_of_le hd (by decide) ?_)
    calc x.mag * 2 ^ 149 ≤ F32.magOf (y.low - 1) * 2 ^ 24 * 2 ^ 125 := by omega
      _ ≤ (2 ^ 24 - 1) * y.mag * 2 ^ 125 := Nat.mul_le_mul_right _ (magOf_pred_le h0)
      _ = F32.magOf (Config.ONE.low - 1) * y.mag := by rw [magOf_pred_one]; ring

end Sys2Proof
end

section
/-! SUPPORT. Envelopes: the operands' ranges, the stage lengths, and that every ENV write leaves a
legal envelope (10_state.md R22 and R33). -/

namespace Sys2Proof

open Sys2Proof.Machine

/-! ### Operands -/

theorem rateOperand_within (d : F32) : F32Within Config.SR_MIN Config.SR_MAX (rateOperand d) :=
  clamp_within d ⟨by decide, by decide⟩ ⟨by decide, by decide⟩ (by decide)

theorem timeOperand_within (d : F32) :
    F32Within Config.ENV_TIME_MIN Config.ENV_TIME_MAX (timeOperand d) :=
  clamp_within d ⟨by decide, by decide⟩ ⟨by decide, by decide⟩ (by decide)

theorem addOperand_within (d : F32) :
    F32Within Config.ENV_ADD_MIN Config.ENV_ADD_MAX (addOperand d) :=
  clamp_within d ⟨by decide, by decide⟩ ⟨by decide, by decide⟩ (by decide)

theorem curveOperand_within (d : F32) :
    F32Within Config.ENV_CURVE_MIN Config.ENV_CURVE_MAX (curveOperand d) :=
  clamp_within d ⟨by decide, by decide⟩ ⟨by decide, by decide⟩ (by decide)

theorem unitOperand_within (d : F32) : F32Within F32.zero Config.ONE (unitOperand d) :=
  clamp_within d zero_nonneg one_nonneg (by decide)

theorem zero_within (hi : F32) : F32Within F32.zero hi F32.zero := ⟨rfl, le_rfl, Nat.zero_le _⟩

theorem one_within_unit : F32Within F32.zero Config.ONE Config.ONE := ⟨rfl, Nat.zero_le _, le_rfl⟩

end Sys2Proof

namespace Sys2Proof.Machine

/-! ### Stage lengths and the sample increment -/

theorem maxStageLength_low_lt : maxStageLength.low < F32.infLow := by decide

/-- The sum of a time and its modulation (R33 invariant 4). -/
theorem stageLength_within {time add : F32}
    (ht : F32Within Config.ENV_TIME_MIN Config.ENV_TIME_MAX time)
    (ha : F32Within Config.ENV_ADD_MIN Config.ENV_ADD_MAX add) :
    F32Within Config.ENV_TIME_MIN maxStageLength (F32.add time add) := by
  have htime : Config.ENV_TIME_MAX.low < F32.infLow := by decide
  have hadd : Config.ENV_ADD_MAX.low < F32.infLow := by decide
  have hsum : Config.ENV_TIME_MAX.mag + Config.ENV_ADD_MAX.mag ≤ maxStageLength.mag := by decide
  obtain ⟨ht0, ht1⟩ := ht.mag_le htime
  obtain ⟨-, ha1⟩ := ha.mag_le hadd
  exact add_within (.of_within ht htime) (.of_within ha hadd) (by decide) maxStageLength_low_lt
    (by omega) (by omega)

/-- One sample at a legal rate lasts less than a second. -/
theorem sampleIncrement_belowOne {sr : F32} (h : F32Within Config.SR_MIN Config.SR_MAX sr) :
    F32BelowOne (F32.div Config.ONE sr) := by
  have hsr : sr.Nonneg := .of_within h (by decide)
  have hone : Config.ONE.low < sr.low := lt_of_lt_of_le (by decide) h.2.1
  have hpos : 0 < sr.low := by omega
  exact ⟨(div_nonneg_spec one_nonneg hsr hpos).1, (low_div_lt_one_iff one_nonneg hsr hpos).2 hone⟩

theorem F32BelowOne.within {x : F32} (h : F32BelowOne x) : F32Within F32.zero Config.ONE x :=
  ⟨h.1, Nat.zero_le _, h.2.le⟩

/-- 16.0, above every stage time one sample past the longest stage. -/
def stageTimeCeiling : F32 := ⟨0x41800000#32⟩

/-- 16384.0, above every quotient of a stage time by a stage length. -/
def rampCeiling : F32 := ⟨0x46800000#32⟩

theorem ramp_nonneg {time length : F32} (ht : F32Within F32.zero stageTimeCeiling time)
    (hl : F32Within Config.ENV_TIME_MIN maxStageLength length) : (F32.div time length).Nonneg := by
  have htop : stageTimeCeiling.low < F32.infLow := by decide
  have hmax : rampCeiling.low < F32.infLow := by decide
  have hceil : stageTimeCeiling.mag * 2 ^ 149 ≤ rampCeiling.mag * Config.ENV_TIME_MIN.mag := by
    decide
  obtain ⟨-, ht1⟩ := ht.mag_le htop
  obtain ⟨hl0, -⟩ := hl.mag_le maxStageLength_low_lt
  have hln : length.Nonneg := .of_within hl maxStageLength_low_lt
  have hpos : 0 < length.low := lt_of_lt_of_le (by decide) hl.2.1
  obtain ⟨hs, hlow⟩ := div_nonneg_spec (.of_within ht htop) hln hpos
  refine ⟨hs, hlow ▸ (roundMag_le_of_le (hln.mag_pos hpos) hmax ?_).trans_lt hmax⟩
  calc time.mag * 2 ^ 149 ≤ stageTimeCeiling.mag * 2 ^ 149 := Nat.mul_le_mul_right _ ht1
    _ ≤ rampCeiling.mag * Config.ENV_TIME_MIN.mag := hceil
    _ ≤ rampCeiling.mag * length.mag := Nat.mul_le_mul_left _ hl0

/-- What is at least 1.0 is cut to 1.0. -/
theorem min1_eq_one {x : F32} (hx : x.Nonneg) (h : Config.ONE.low ≤ x.low) :
    F32.min1 x = Config.ONE := by
  unfold F32.min1
  split_ifs with hgt
  · rfl
  · have hle : x.low ≤ Config.ONE.low := not_lt.1 fun hlt => hgt ((one_nonneg.lt_iff hx).2 hlt)
    exact F32.ext_low hx.1 (le_antisymm hle h)

section Legal

variable {e : EnvUnit}

theorem EnvUnit.Legal.attackLength (he : e.Legal) :
    F32Within Config.ENV_TIME_MIN maxStageLength (attackLength e) :=
  stageLength_within he.attackTime he.attackAdd

theorem EnvUnit.Legal.decayLength (he : e.Legal) :
    F32Within Config.ENV_TIME_MIN maxStageLength (decayLength e) :=
  stageLength_within he.decayTime he.decayAdd

theorem EnvUnit.Legal.curve (he : e.Legal) :
    F32Within F32.zero ⟨0x40800000#32⟩ e.curveExponent :=
  he.curveExponent.weaken (Nat.zero_le _) le_rfl

theorem EnvUnit.Legal.nextStageTime (he : e.Legal) :
    F32Within F32.zero stageTimeCeiling (nextStageTime e) := by
  obtain ⟨sr, hsr, hinc⟩ := he.sampleIncrement
  have hi : F32Within F32.zero Config.ONE e.sampleIncrement :=
    hinc ▸ (sampleIncrement_belowOne hsr).within
  have hsum : maxStageLength.mag + Config.ONE.mag ≤ stageTimeCeiling.mag := by decide
  obtain ⟨-, ht1⟩ := he.stageTime.mag_le maxStageLength_low_lt
  obtain ⟨-, hi1⟩ := hi.mag_le one_low_lt
  exact add_within (.of_within he.stageTime maxStageLength_low_lt) (.of_within hi one_low_lt)
    zero_nonneg.2 (by decide) (Nat.zero_le _) (by omega)

/-- A stage time whose ramp is below 1.0 is within the stage. -/
theorem EnvUnit.Legal.nextStageTime_within (he : e.Legal) {length : F32}
    (hl : F32Within Config.ENV_TIME_MIN maxStageLength length)
    (h : (F32.div (Machine.nextStageTime e) length).low < Config.ONE.low) :
    F32Within F32.zero maxStageLength (Machine.nextStageTime e) := by
  have ht := he.nextStageTime
  have hpos : 0 < length.low := lt_of_lt_of_le (by decide) hl.2.1
  have hlt := (low_div_lt_one_iff (.of_within ht (by decide))
    (.of_within hl maxStageLength_low_lt) hpos).1 h
  exact ⟨ht.1, ht.2.1, hlt.le.trans hl.2.2⟩

/-- The attack goes on only while its ramp is below 1.0 (R120). -/
theorem attackSample_legal (he : e.Legal) (ha : e.stage ≠ .off) : (attackSample e).Legal := by
  unfold attackSample
  split_ifs with hend
  · exact { he with
      stageTime := zero_within _
      lastOutput := one_within_unit
      offIsSilent := nofun }
  · have hr := ramp_nonneg he.nextStageTime he.attackLength
    have hpow := powKeepsToItsSideOfOne _ _ hr.1 hr.finite he.curve
    have hlt := not_le.1 fun hle => hend (hpow.2 hle)
    exact { he with
      stageTime := he.nextStageTime_within he.attackLength hlt
      lastOutput := hpow.1 hlt.le
      offIsSilent := fun hoff => absurd hoff ha }

/-- The decay ramp of a whole stage is +0.0. -/
theorem decayRamp_eq_zero (he : e.Legal)
    (h : Config.ONE.low ≤ (F32.div (nextStageTime e) (decayLength e)).low) :
    decayRamp e = F32.zero := by
  rw [decayRamp, min1_eq_one (ramp_nonneg he.nextStageTime he.decayLength) h,
    show F32.sub Config.ONE Config.ONE = F32.zero by decide]
  exact POW_zero_base zero_nonneg he.curve rfl

/-- The decay goes on only while its ramp is above the off level, so within the stage (R120). -/
theorem decaySample_legal (he : e.Legal) (ha : e.stage ≠ .off) : (decaySample e).Legal := by
  unfold decaySample
  split_ifs with hend
  · exact { he with
      stageTime := zero_within _
      lastOutput := zero_within _
      offIsSilent := fun _ => rfl }
  · have hbase := one_sub_within (min1_within (ramp_nonneg he.nextStageTime he.decayLength))
    have hb : F32.Nonneg _ := .of_within hbase one_low_lt
    have hlt := not_le.1 fun hle => hend (by rw [decayRamp_eq_zero he hle]; decide)
    exact { he with
      stageTime := he.nextStageTime_within he.decayLength hlt
      lastOutput := (powKeepsToItsSideOfOne _ _ hb.1 hb.finite he.curve).1 hbase.2.2
      offIsSilent := fun hoff => absurd hoff ha }

theorem envSample_legal (he : e.Legal) : (envSample e).Legal := by
  unfold envSample
  split
  · exact { he with lastOutput := zero_within _, offIsSilent := fun _ => rfl }
  · next ha => exact attackSample_legal he (by simp [ha])
  · next hd => exact decaySample_legal he (by simp [hd])

theorem envTriggered_legal (he : e.Legal) : (envTriggered e).Legal := by
  unfold envTriggered
  split_ifs
  · exact { he with
      stageTime := mul_unit_within he.lastOutput he.attackLength maxStageLength_low_lt
      offIsSilent := nofun }
  · exact { he with stageTime := zero_within _, offIsSilent := nofun }

theorem envReleased_legal (he : e.Legal) : (envReleased e).Legal := by
  unfold envReleased
  split
  · exact { he with stageTime := zero_within _, offIsSilent := nofun }
  · exact he
  · exact he

theorem envInitBody_legal (d : F32) : (envInitBody d).Legal where
  stageTime := zero_within _
  sampleIncrement := ⟨_, rateOperand_within d, rfl⟩
  attackTime := show F32Within _ _ Config.ENV_ATTACK_INIT from ⟨rfl, by decide, by decide⟩
  attackAdd := zero_within _
  decayTime := show F32Within _ _ Config.ENV_DECAY_INIT from ⟨rfl, by decide, by decide⟩
  decayAdd := zero_within _
  curveExponent := show F32Within _ _ Config.ONE from ⟨rfl, by decide, by decide⟩
  outputScale := one_within_unit
  lastOutput := zero_within _
  offIsSilent _ := rfl

/-- Every ENV command leaves a legal envelope legal. -/
theorem EnvWrite.legal {e' : EnvUnit} (h : EnvWrite e e') (he : e.Legal) : e'.Legal := by
  cases h with
  | init d => exact envInitBody_legal d
  | attackTime d => exact { he with attackTime := timeOperand_within d }
  | attackAdd d => exact { he with attackAdd := addOperand_within d }
  | decayTime d => exact { he with decayTime := timeOperand_within d }
  | decayAdd d => exact { he with decayAdd := addOperand_within d }
  | outputScale d => exact { he with outputScale := unitOperand_within d }
  | curveExponent d => exact { he with curveExponent := curveOperand_within d }
  | triggered => exact envTriggered_legal he
  | released => exact envReleased_legal he
  | sample => exact envSample_legal he

theorem envOutput_within (he : e.Legal) : F32Within F32.zero Config.ONE (envOutput e) :=
  mul_unit_within he.lastOutput he.outputScale one_low_lt

end Legal

/-- Settles O25: a sum rounds to at least its first operand's lower bound. -/
theorem stageLengthsAreNeverZero : Obligations.StageLengthsAreNeverZero := by
  intro s n hs
  have hmin : Config.ENV_TIME_MIN.Nonneg := ⟨by decide, by decide⟩
  have hle : ∀ {x : F32}, F32Within Config.ENV_TIME_MIN maxStageLength x →
      F32.le Config.ENV_TIME_MIN x = true := fun hx =>
    (hmin.le_iff (.of_within hx maxStageLength_low_lt)).2 hx.2.1
  exact ⟨hle (hs.env n).attackLength, hle (hs.env n).decayLength⟩

/-- `ENV.PROCESS` on an envelope the block has always completes (R120). -/
theorem exec_envProcess {n : InstNo} (s : State) (hn : n.toNat < Config.NUM_ENV) :
    exec (.envProcess n) s = .next (respond0 (setEnv s n (envSample s.env[n.toNat]))
      (envOutput (envSample s.env[n.toNat])).bits) := by
  unfold exec
  exact withEnv_inRange hn

/-- Settles O23: the new `lastOutput` and `outputScale` are in [0, 1], and so is their product. -/
theorem envOutputStaysInTheUnitInterval : Obligations.EnvOutputStaysInTheUnitInterval :=
  fun n _ hn hs =>
    ⟨_, exec_envProcess _ hn, envOutput_within (envSample_legal (hs.env ⟨n.toNat, hn⟩))⟩

end Sys2Proof.Machine
end

section
/-! SUPPORT. Oscillators: the range of EXP2 at the detune exponents, the voice frequencies and phase
increments of R150, the phase advance, and that every OSC write leaves a legal oscillator
(10_state.md R24 and R33). -/

namespace Sys2Proof

open Sys2Proof.Machine

/-! ### Products and quotients of either sign -/

section Signed

variable {x y : F32}

theorem low_mul_of_finite (hx : x.low < F32.infLow) (hy : y.low < F32.infLow) :
    (F32.mul x y).low = roundMag (x.mag * y.mag) (2 ^ 149) := by
  have h : F32.mul x y = roundSigned (x.sign != y.sign) (x.mag * y.mag) (2 ^ 149) := by
    simp [F32.mul, isNaN_eq_false hx.le, isNaN_eq_false hy.le, isInf_eq_false hx, isInf_eq_false hy]
  rw [h, low_roundSigned]

theorem low_div_of_finite (hx : x.low < F32.infLow) (hy : y.low < F32.infLow) (h0 : 0 < y.low) :
    (F32.div x y).low = roundMag (x.mag * 2 ^ 149) y.mag := by
  have h : F32.div x y = roundSigned (x.sign != y.sign) (x.mag * 2 ^ 149) y.mag := by
    simp [F32.div, isNaN_eq_false hx.le, isNaN_eq_false hy.le, isInf_eq_false hx,
      isInf_eq_false hy, h0.ne']
  rw [h, low_roundSigned]

end Signed

/-! ### EXP2 up to one half -/

/-- 1.5, above the square root of two. -/
def sqrtTwoCeiling : F32 := ⟨0x3FC00000#32⟩

theorem magOf_sqrtTwoCeiling : F32.magOf sqrtTwoCeiling.low = 3 * 2 ^ 148 := by decide

theorem two_rpow_half_le : (2 : ℝ) ^ (1 / 2 : ℝ) ≤ 3 / 2 := by
  rw [← Real.sqrt_eq_rpow]
  exact Real.sqrt_le_iff.2 ⟨by norm_num, by norm_num⟩

theorem Ratio.round_le_of_value_le {r : Ratio} {low : Nat} (hd : 0 < r.den)
    (hl : low < F32.infLow) (h : r.value ≤ F32.magOf low) : r.round ≤ low := by
  refine roundMag_le_of_le hd hl ?_
  rw [Ratio.value, div_le_iff₀ (by exact_mod_cast hd)] at h
  exact_mod_cast h

theorem exp2Mag_le_of_le_half {v : Int} (h : v ≤ 2 ^ 148) : exp2Mag v ≤ sqrtTwoCeiling.low := by
  refine settleAll_of_forall (P := (· ≤ sqrtTwoCeiling.low)) fun p _ => ?_
  refine Ratio.round_le_of_value_le (scaleBy_den_pos _ _ _) (by decide) ?_
  have hexp : (v : ℝ) / 2 ^ 149 ≤ 1 / 2 := by
    have hv : (v : ℝ) ≤ 2 ^ 148 := by exact_mod_cast h
    rw [div_le_iff₀ (by positivity)]
    linarith
  calc (exp2Enclosure v p).lo.value
      ≤ (2 : ℝ) ^ ((v : ℝ) / 2 ^ 149) * 2 ^ 149 := (exponentialEnclosureIsSound v p).1
    _ ≤ (2 : ℝ) ^ (1 / 2 : ℝ) * 2 ^ 149 := by gcongr; exact one_le_two
    _ ≤ 3 / 2 * 2 ^ 149 := by gcongr; exact two_rpow_half_le
    _ = (F32.magOf sqrtTwoCeiling.low : ℝ) := by rw [magOf_sqrtTwoCeiling]; norm_num

theorem EXP2_within {x : F32} (h : x.low ≤ Config.HALF.low) :
    F32Within F32.zero sqrtTwoCeiling (EXP2 x) := by
  have hfin : x.low < F32.infLow := h.trans_lt (by decide)
  have hmag : x.mag ≤ 2 ^ 148 :=
    ((magOf_le_magOf hfin (by decide)).2 h).trans_eq (by decide : Config.HALF.mag = 2 ^ 148)
  have hval : -2 ^ 148 ≤ x.val ∧ x.val ≤ 2 ^ 148 := by
    unfold F32.val
    split <;> omega
  have hf : x.isFinite = true := decide_eq_true hfin
  rw [EXP2, if_pos hf, if_neg (by omega), if_neg (by omega)]
  have hlt : exp2Mag x.val < 2 ^ 31 := settleAll_lt _
  exact ⟨sign_ofLow _ hlt, Nat.zero_le _,
    (low_ofLow _ hlt).trans_le (exp2Mag_le_of_le_half hval.2)⟩

/-! ### Half the sample rate -/

theorem two_mul_magOf_sub {low : Nat} (h : 2 ^ 24 ≤ low) :
    2 * F32.magOf (low - 2 ^ 23) = F32.magOf low := by
  obtain ⟨e, he⟩ : ∃ e, low / 2 ^ 23 = e + 2 := ⟨low / 2 ^ 23 - 2, by omega⟩
  have hfrac : (low - 2 ^ 23) % 2 ^ 23 = low % 2 ^ 23 := by omega
  rw [magOf_succ (e := e) (by omega), magOf_succ he, hfrac]
  ring

/-- Halving a sample rate is exact: it steps one binade down. -/
theorem halfRate_spec {sr : F32} (h : F32Within Config.SR_MIN Config.SR_MAX sr) :
    (halfRate sr).sign = false ∧ (halfRate sr).low = sr.low - 2 ^ 23 ∧
      2 * (halfRate sr).mag = sr.mag := by
  have hlow : 2 ^ 24 ≤ sr.low := le_trans (by decide) h.2.1
  have hsr : sr.Nonneg := .of_within h (by decide)
  have htwo : Config.TWO.mag = 2 ^ 150 := by decide
  have hhalf := two_mul_magOf_sub hlow
  have hnum : sr.mag * 2 ^ 149 = F32.magOf (sr.low - 2 ^ 23) * 2 ^ 150 := by
    rw [F32.mag, ← hhalf]
    ring
  obtain ⟨hs, hl⟩ := div_nonneg_spec hsr (y := Config.TWO) ⟨by decide, by decide⟩ (by decide)
  rw [htwo, hnum, roundMag_magOf (by have := hsr.2; omega) (by positivity)] at hl
  refine ⟨hs, hl, ?_⟩
  rw [F32.mag, halfRate, hl, hhalf, F32.mag]

theorem halfRate_nonneg {sr : F32} (h : F32Within Config.SR_MIN Config.SR_MAX sr) :
    (halfRate sr).Nonneg := by
  have hsr : sr.low < F32.infLow := h.2.2.trans_lt (by decide)
  obtain ⟨hs, hl, -⟩ := halfRate_spec h
  exact ⟨hs, by omega⟩

end Sys2Proof

namespace Sys2Proof.Machine

/-! ### Voices (R150) -/

/-- 12.0, the widest offset of `CENTS`. -/
def widestCents : F32 := ⟨0x41400000#32⟩

theorem cents_low_le : ∀ i : Fin Config.N_VOICES, Config.CENTS[i].low ≤ widestCents.low := by
  decide

/-- The exponent of a voice's frequency ratio is far below one half of either sign. -/
theorem detuneExponent_low_le {d : F32} (hd : F32Within F32.zero Config.ONE d)
    (i : Fin Config.N_VOICES) :
    (F32.div (F32.mul Config.CENTS[i] d) Config.CENTS_PER_OCTAVE).low ≤ Config.HALF.low := by
  have hwide : widestCents.low < F32.infLow := by decide
  have hoct : Config.CENTS_PER_OCTAVE.low < F32.infLow := by decide
  have hcents : Config.CENTS[i].low < F32.infLow := (cents_low_le i).trans_lt hwide
  have hcmag : Config.CENTS[i].mag ≤ widestCents.mag :=
    (magOf_le_magOf hcents hwide).2 (cents_low_le i)
  have hdmag : d.mag ≤ 2 ^ 149 := (hd.mag_le one_low_lt).2.trans_eq magOf_one
  have hprod : (F32.mul Config.CENTS[i] d).low ≤ widestCents.low := by
    rw [low_mul_of_finite hcents (hd.2.2.trans_lt one_low_lt)]
    exact roundMag_le_of_le (by positivity) hwide (Nat.mul_le_mul hcmag hdmag)
  have hpfin := hprod.trans_lt hwide
  have hpmag : (F32.mul Config.CENTS[i] d).mag ≤ widestCents.mag :=
    (magOf_le_magOf hpfin hwide).2 hprod
  rw [low_div_of_finite hpfin hoct (by decide)]
  refine roundMag_le_of_le (by decide) (by decide) ?_
  calc _ ≤ widestCents.mag * 2 ^ 149 := Nat.mul_le_mul_right _ hpmag
    _ ≤ Config.HALF.mag * Config.CENTS_PER_OCTAVE.mag := by decide

section Voice

variable {o : OscUnit}

/-- At most half the rate times at most 1.5 is below the rate. -/
theorem voiceFrequency_lt_sampleRate (ho : o.Legal) (i : Fin Config.N_VOICES) :
    (voiceFrequency o i).sign = false ∧ (voiceFrequency o i).low < o.sampleRate.low := by
  have hhalf := halfRate_nonneg ho.sampleRate
  have hratio := EXP2_within (detuneExponent_low_le ho.detuneAmount i)
  have hratiofin : sqrtTwoCeiling.low < F32.infLow := by decide
  obtain ⟨hs, hl⟩ := mul_nonneg_spec (.of_within ho.baseFrequency hhalf.2)
    (.of_within hratio hratiofin)
  obtain ⟨-, hbmag⟩ := ho.baseFrequency.mag_le hhalf.2
  obtain ⟨-, hrmag⟩ := hratio.mag_le hratiofin
  obtain ⟨-, -, hhmag⟩ := halfRate_spec ho.sampleRate
  have hsr : 4 ≤ o.sampleRate.low := le_trans (by decide) ho.sampleRate.2.1
  have hsrfin : o.sampleRate.low < F32.infLow := ho.sampleRate.2.2.trans_lt (by decide)
  have hpred : 3 * o.sampleRate.mag ≤ 4 * F32.magOf (o.sampleRate.low - 1) :=
    three_magOf_le_pred hsr
  refine ⟨hs, hl.trans_lt (Nat.lt_of_le_pred (by omega) ?_)⟩
  refine roundMag_le_of_le (by positivity) ((Nat.pred_le _).trans_lt hsrfin) ?_
  calc _ ≤ (halfRate o.sampleRate).mag * sqrtTwoCeiling.mag := Nat.mul_le_mul hbmag hrmag
    _ = (halfRate o.sampleRate).mag * (3 * 2 ^ 148) :=
        congrArg _ magOf_sqrtTwoCeiling
    _ ≤ F32.magOf (o.sampleRate.low - 1) * 2 ^ 149 := by omega

theorem recompute_legal (ho : o.Legal) : (recompute o).Legal where
  sampleRate := ho.sampleRate
  baseFrequency := ho.baseFrequency
  detuneAmount := ho.detuneAmount
  amplitude := ho.amplitude
  frequency i := by
    obtain ⟨hs, hlt⟩ := voiceFrequency_lt_sampleRate ho i
    simpa [recompute] using
      show F32Within _ _ (voiceFrequency o i) from
        ⟨hs, Nat.zero_le _, hlt.le.trans ho.sampleRate.2.2⟩
  phaseIncrement i := by
    obtain ⟨hs, hlt⟩ := voiceFrequency_lt_sampleRate ho i
    have hsr : o.sampleRate.Nonneg := .of_within ho.sampleRate (by decide)
    have hv : (voiceFrequency o i).Nonneg := ⟨hs, hlt.trans hsr.2⟩
    have hpos : 0 < o.sampleRate.low := by omega
    simpa [recompute] using
      show F32BelowOne (F32.div (voiceFrequency o i) o.sampleRate) from
        ⟨(div_nonneg_spec hv hsr hpos).1, (low_div_lt_one_iff hv hsr hpos).2 hlt⟩
  phase := ho.phase

end Voice

/-! ### The phase advance (R159) -/

/-- The greatest value below 2.0. -/
def belowTwo : F32 := ⟨0x3FFFFFFF#32⟩

theorem F32BelowOne.mag_le {x : F32} (h : F32BelowOne x) : x.mag ≤ (2 ^ 24 - 1) * 2 ^ 125 := by
  rw [← magOf_pred_one]
  exact (magOf_le_magOf (h.2.trans one_low_lt) (by decide)).2 (Nat.le_pred_of_lt h.2)

/-- A sum of two values below 1.0 stays below 2.0, and 1.0 less is below 1.0. -/
theorem advancedPhase_belowOne {phase increment : F32} (hp : F32BelowOne phase)
    (hi : F32BelowOne increment) : F32BelowOne (advancedPhase phase increment) := by
  have htwo : belowTwo.mag = (2 ^ 24 - 1) * 2 ^ 126 := by decide
  have hpmag := hp.mag_le
  have himag := hi.mag_le
  have hsum : F32Within F32.zero belowTwo (F32.add phase increment) :=
    add_within (.of_within hp.within one_low_lt) (.of_within hi.within one_low_lt) zero_nonneg.2
      (by decide) (Nat.zero_le _) (by omega)
  have hn : (F32.add phase increment).Nonneg := .of_within hsum (by decide)
  unfold advancedPhase
  split_ifs with hge
  · obtain ⟨hs, hl⟩ := sub_nonneg_spec hn one_nonneg ((one_nonneg.le_iff hn).1 hge)
    have hone : Config.ONE.mag = 2 ^ 149 := magOf_one
    obtain ⟨-, hmag⟩ := hsum.mag_le (by decide)
    refine ⟨hs, hl.trans_lt (Nat.lt_of_le_pred (by decide) ?_)⟩
    exact roundMag_le_of_le Nat.one_pos (by decide) (by rw [Nat.pred_eq_sub_one, magOf_pred_one]; omega)
  · exact ⟨hn.1, not_le.1 fun hle => hge ((one_nonneg.le_iff hn).2 hle)⟩

/-! ### OSC writes -/

section Legal

variable {o : OscUnit}

theorem frequencyOperand_within {sr : F32} (h : F32Within Config.SR_MIN Config.SR_MAX sr)
    (hz : F32) :
    F32Within F32.zero (halfRate sr) (frequencyOperand hz sr) :=
  clamp_within hz zero_nonneg (halfRate_nonneg h) (Nat.zero_le _)

/-- 440 Hz is below half of the lowest sample rate. -/
theorem a4_within_halfRate {sr : F32} (h : F32Within Config.SR_MIN Config.SR_MAX sr) :
    F32Within F32.zero (halfRate sr) Config.A4_HZ := by
  have hmin : Config.A4_HZ.low + 2 ^ 23 ≤ Config.SR_MIN.low := by decide
  obtain ⟨-, hl, -⟩ := halfRate_spec h
  exact ⟨by decide, Nat.zero_le _, hl ▸ Nat.le_sub_of_add_le (hmin.trans h.2.1)⟩

theorem zero_belowOne : F32BelowOne F32.zero := ⟨by decide, by decide⟩

theorem oscInitBody_legal (d : F32) : (oscInitBody d).Legal :=
  recompute_legal
    { sampleRate := rateOperand_within d
      baseFrequency := a4_within_halfRate (rateOperand_within d)
      detuneAmount := zero_within _
      amplitude := zero_within _
      frequency := fun i => by simpa using zero_within Config.SR_MAX
      phaseIncrement := fun i => by simpa using zero_belowOne
      phase := fun i => by simpa using zero_belowOne }

theorem advanceAll_legal (ho : o.Legal) : (advanceAll o).Legal :=
  { ho with
    phase := fun i => by
      simpa [advanceAll] using advancedPhase_belowOne (ho.phase i) (ho.phaseIncrement i) }

/-- Every OSC command leaves a legal oscillator legal. -/
theorem OscWrite.legal {o' : OscUnit} (h : OscWrite o o') (ho : o.Legal) : o'.Legal := by
  cases h with
  | init d => exact oscInitBody_legal d
  | note note =>
    exact recompute_legal { ho with baseFrequency := frequencyOperand_within ho.sampleRate _ }
  | frequency hz =>
    exact recompute_legal { ho with baseFrequency := frequencyOperand_within ho.sampleRate hz }
  | amplitude d => exact { ho with amplitude := unitOperand_within d }
  | detune d => exact recompute_legal { ho with detuneAmount := unitOperand_within d }
  | mode mode => exact { ho with }
  | advanced => exact advanceAll_legal ho

end Legal

end Sys2Proof.Machine
end

section
/-! SUPPORT. The block: the invariant under each state operation and under one command. -/

namespace Sys2Proof.Machine

theorem fltInitBody_legal : fltInitBody.Legal := ⟨one_within_unit, zero_within _⟩

/-- Every FLT command leaves a legal filter legal. -/
theorem FltWrite.legal {f f' : FltUnit} (h : FltWrite f f') (hf : f.Legal) : f'.Legal := by
  cases h with
  | init => exact fltInitBody_legal
  | cutoffPosition d => exact { hf with cutoffPosition := unitOperand_within d }
  | resonancePosition d => exact { hf with resonancePosition := unitOperand_within d }
  | cutoffAddition | filtered | interp => exact { hf with }

theorem buildTable_legal {sr : F32} (h : F32Within Config.SR_MIN Config.SR_MAX sr) :
    (buildTable sr).Legal := ⟨h, rfl⟩

/-! ### The invariant under the state operations -/

section Operations

variable {s : State}

theorem inv_setIllegal (hs : s.Inv) : (setIllegal s).Inv :=
  { hs with
    status := by
      rcases hs.status with h | h <;> simp [h, statusSetIllegal] }

theorem inv_cleared (hs : s.Inv) : State.Inv { s with status := statusCleared } :=
  { hs with status := .inl rfl }

theorem inv_port (hs : s.Inv) (rest : List Command) : State.Inv { s with port := rest } :=
  { hs with }

theorem inv_respond0 (hs : s.Inv) (w : Word) : (respond0 s w).Inv := { hs with }

theorem inv_respondBoth (hs : s.Inv) (w0 w1 : Word) : (respondBoth s w0 w1).Inv := { hs with }

theorem inv_setEnv (hs : s.Inv) (n : InstNo) {e : EnvUnit} (he : e.Legal) : (setEnv s n e).Inv :=
  { hs with
    env := fun m => by
      rw [Fin.getElem_fin, setEnv_getElem]
      split_ifs
      · exact he
      · exact hs.env m }

theorem inv_setOsc (hs : s.Inv) (n : InstNo) {o : OscUnit} (ho : o.Legal) : (setOsc s n o).Inv :=
  { hs with
    osc := fun m => by
      rw [Fin.getElem_fin, setOsc_getElem]
      split_ifs
      · exact ho
      · exact hs.osc m }

theorem inv_setFlt (hs : s.Inv) (n : InstNo) {f : FltUnit} (hf : f.Legal) : (setFlt s n f).Inv :=
  { hs with
    flt := fun m => by
      rw [Fin.getElem_fin, setFlt_getElem]
      split_ifs
      · exact hf
      · exact hs.flt m }

theorem inv_rebuildTable (hs : s.Inv) {sr : F32} (h : F32Within Config.SR_MIN Config.SR_MAX sr) :
    (rebuildTable s sr).Inv :=
  { hs with tab := buildTable_legal h }

end Operations

theorem inv_reset : State.reset.Inv where
  env n := by simpa using envInitBody_legal Config.SR_RESET
  osc n := by simpa using oscInitBody_legal Config.SR_RESET
  flt n := by simpa using fltInitBody_legal
  tab := buildTable_legal ⟨by decide, by decide, by decide⟩
  status := .inl rfl

theorem inv_resetBlock (s : State) : (resetBlock s).Inv := inv_port inv_reset s.port

/-! ### One command, one step -/

/-- Every effect of a command keeps the invariant. -/
theorem Effect.inv {i : Instr} {s t : State} (h : Effect s i t) (hs : s.Inv) : t.Inv := by
  cases h with
  | illegal => exact inv_setIllegal hs
  | idle => exact hs
  | cleared => exact inv_cleared hs
  | reset => exact inv_resetBlock s
  | answer _ w => exact inv_respond0 hs w
  | env _ hn he => exact inv_setEnv hs _ (he.legal (hs.env ⟨_, hn⟩))
  | envProcess hn he w => exact inv_respond0 (inv_setEnv hs _ (he.legal (hs.env ⟨_, hn⟩))) w
  | osc _ hn ho => exact inv_setOsc hs _ (ho.legal (hs.osc ⟨_, hn⟩))
  | oscProcess hn ho w0 w1 =>
    exact inv_respondBoth (inv_setOsc hs _ (ho.legal (hs.osc ⟨_, hn⟩))) w0 w1
  | flt _ hn hf => exact inv_setFlt hs _ (hf.legal (hs.flt ⟨_, hn⟩))
  | fltInit d hn hf =>
    exact inv_setFlt (inv_rebuildTable hs (rateOperand_within d)) _ (hf.legal (hs.flt ⟨_, hn⟩))
  | fltProcess _ hn hf w => exact inv_respond0 (inv_setFlt hs _ (hf.legal (hs.flt ⟨_, hn⟩))) w

theorem exec_inv {i : Instr} {s t : State} (hs : s.Inv) (h : exec i s = .next t) : t.Inv :=
  (exec_effect h).inv hs

/-- Settles O45: an idle step keeps the state, a legal record runs a command, whose effect is
legal, and an illegal one sets `ILLEGAL`. -/
theorem everyStepKeepsTheInvariant : Obligations.EveryStepKeepsTheInvariant := by
  intro s t hs h
  obtain ⟨-, hidle⟩ | ⟨c, rest, -, ⟨i, -, hexec⟩ | ⟨e, -, hill⟩⟩ := step_cases s
  · cases hidle.symm.trans h
    exact hs
  · exact exec_inv (inv_port hs rest) (hexec.symm.trans h)
  · cases hill.symm.trans h
    exact inv_setIllegal (inv_port hs rest)

end Sys2Proof.Machine
end

section
/-! SUPPORT. Records as bytes (20_memory.md R64 and R65) and the command at the front of the port
(R62 and R67). -/

namespace Sys2Proof

/-! ### Records as bytes -/

theorem byteOfWord_eq_div_pow (w : Word) (k : Nat) :
    byteOfWord w k = BitVec.ofNat 8 (w.toNat / 256 ^ k) := by
  rw [byteOfWord, pow_mul, show 2 ^ 8 = 256 from rfl]

@[simp] theorem bytesOfWord_length (w : Word) : (bytesOfWord w).length = 4 := rfl

theorem bytesOfWord_getElem? (w : Word) {k : Nat} (hk : k < 4) :
    (bytesOfWord w)[k]? = some (BitVec.ofNat 8 (w.toNat / 256 ^ k)) := by
  rw [← byteOfWord_eq_div_pow]
  interval_cases k <;> rfl

theorem toBytes_getElem?_cmd (c : Command) {k : Nat} (hk : k < 4) :
    c.toBytes[k]? = some (BitVec.ofNat 8 (c.cmd.toNat / 256 ^ k)) := by
  rw [Command.toBytes, List.getElem?_append_left (by simpa), bytesOfWord_getElem? _ hk]

theorem toBytes_getElem?_data (c : Command) {k : Nat} (hk : k < 4) :
    c.toBytes[4 + k]? = some (BitVec.ofNat 8 (c.data.toNat / 256 ^ k)) := by
  rw [Command.toBytes, List.getElem?_append_right (by simp), bytesOfWord_length,
    Nat.add_sub_cancel_left, bytesOfWord_getElem? _ hk]

theorem ofBytes_eq_none {bs : List Byte} (h : bs.length < 8) : Command.ofBytes bs = none := by
  unfold Command.ofBytes
  split
  · simp only [List.length_cons] at h
    omega
  · rfl

theorem decodeBytes_of_length_lt {bs : List Byte} (h : bs.length < 8) :
    decodeBytes bs = .error .truncated := by
  rw [decodeBytes, ofBytes_eq_none h]

section Decoded

variable {c : Command} (rest : List Byte)

theorem decodeBytes_toBytes_of_decode_ok {i : Instr} (h : decode c = .ok i) :
    decodeBytes (c.toBytes ++ rest) = .ok (i, rest) := by
  rw [decodeBytes, ofBytes_toBytes]
  simp only [h]

theorem decodeBytes_toBytes_of_decode_error {e : DecodeError} (h : decode c = .error e) :
    decodeBytes (c.toBytes ++ rest) = .error e := by
  rw [decodeBytes, ofBytes_toBytes]
  simp only [h]

end Decoded

/-- Settles O7: each word lies at its own offset, a record is read back whatever follows it, and
`ofBytes` matches no shorter stream. -/
theorem recordsReadBackFromTheirBytes : Obligations.RecordsReadBackFromTheirBytes := by
  refine ⟨fun c k hk => ⟨toBytes_getElem?_cmd c hk, toBytes_getElem?_data c hk⟩,
    fun c rest => ?_, fun _ => decodeBytes_of_length_lt⟩
  cases hd : decode c with
  | ok i => exact decodeBytes_toBytes_of_decode_ok rest hd
  | error e => exact decodeBytes_toBytes_of_decode_error rest hd

end Sys2Proof

namespace Sys2Proof.Machine

/-! ### The front of the port -/

theorem step_of_port_cons {s : State} {c : Command} {rest : List Command}
    (h : s.port = c :: rest) : step s = runCommand c { s with port := rest } := by
  rw [step, takeCommand_cons h]

theorem runCommand_of_decode_ok {c : Command} {i : Instr} (h : decode c = .ok i) (s : State) :
    runCommand c s = exec i s := by
  rw [runCommand, h]

/-- Settles O1: the step runs the front record, which is the command it decodes to. -/
theorem stepRunsTheDecodedCommand : Obligations.StepRunsTheDecodedCommand := by
  intro s c rest i hport hdecode
  rw [step_of_port_cons hport, runCommand_of_decode_ok hdecode]

end Sys2Proof.Machine
end

section
/-! SUPPORT. The decoder as a map of the fields of CMD (30_encoding.md R83, R84 and R86): what each
immediate form accepts, what each unit's operations decode to, and which words are legal. -/

namespace Sys2Proof

open Sys2Proof.Machine

/-! ### What the immediate forms accept (R83) -/

section Forms

variable {imm : Nat} {i : Instr}

theorem formZ_eq_ok_iff {a : Instr} : formZ imm a = .ok i ↔ imm = 0 ∧ a = i := by
  unfold formZ
  split_ifs with h <;> simp [h]

theorem formNote7_eq_ok_iff {f : BitVec 7 → Instr} :
    formNote7 imm f = .ok i ↔ ∃ note : BitVec 7, note.toNat = imm ∧ f note = i := by
  unfold formNote7
  split_ifs with h
  · rw [Except.ok.injEq]
    constructor
    · exact fun hi => ⟨_, (BitVec.toNat_ofNat ..).trans (Nat.mod_eq_of_lt h), hi⟩
    · rintro ⟨note, rfl, hi⟩
      rwa [BitVec.ofNat_toNat, BitVec.setWidth_eq]
  · refine iff_of_false nofun ?_
    rintro ⟨note, rfl, -⟩
    exact h note.isLt

theorem formMode2_eq_ok_iff {f : OscMode → Instr} :
    formMode2 imm f = .ok i ↔ ∃ mode : OscMode, mode.code = imm ∧ f mode = i := by
  constructor
  · unfold formMode2
    split <;> rintro ⟨⟩
    · exact ⟨.unison, rfl, rfl⟩
    · exact ⟨.saw1, rfl, rfl⟩
    · exact ⟨.sine, rfl, rfl⟩
  · rintro ⟨mode, rfl, rfl⟩
    cases mode <;> rfl

theorem formBit1_eq_ok_iff {f : Lookup → Instr} :
    formBit1 imm f = .ok i ↔ ∃ mode : Lookup, mode.code = imm ∧ f mode = i := by
  constructor
  · unfold formBit1
    split <;> rintro ⟨⟩
    · exact ⟨.nearest, rfl, rfl⟩
    · exact ⟨.bilinear, rfl, rfl⟩
  · rintro ⟨mode, rfl, rfl⟩
    cases mode <;> rfl

end Forms

/-! ### The opcode map of all units (R86) -/

/-- The operation that UNIT and OP select, its IMM checked, whatever INST is. -/
def decodeUnit (unit op : Nat) (n : InstNo) (imm : Nat) (d : F32) : Except DecodeError Instr :=
  match unit with
  | 0 => decodeSys op imm
  | 1 => decodeEnv op n imm d
  | 2 => decodeOsc op n imm d
  | 3 => decodeFlt op n imm d
  | _ => .error .reservedUnit

theorem eq_zero_iff_lt_unitCount {n : InstNo} : n = 0#8 ↔ n.toNat < unitCount 0 := by
  rw [← BitVec.toNat_inj]
  exact Nat.lt_one_iff.symm

theorem ite_error_eq_ok_iff {p : Prop} [Decidable p] {r : Except DecodeError Instr}
    {e : DecodeError} {i : Instr} : (if p then r else .error e) = .ok i ↔ p ∧ r = .ok i := by
  split_ifs with hp <;> simp [hp]

/-- A record decodes where its INST is in range and its operation and IMM are assigned. -/
theorem decode_eq_ok_iff {c : Command} {i : Instr} :
    decode c = .ok i ↔ (instField c.cmd).toNat < unitCount (unitField c.cmd) ∧
      decodeUnit (unitField c.cmd) (opField c.cmd) (instField c.cmd) (immField c.cmd) ⟨c.data⟩ =
        .ok i := by
  unfold decode
  generalize unitField c.cmd = unit
  match unit with
  | 0 => exact ite_error_eq_ok_iff.trans (and_congr_left' eq_zero_iff_lt_unitCount)
  | 1 | 2 | 3 => exact ite_error_eq_ok_iff.trans (and_congr_left' decide_eq_true_iff)
  | _ + 4 => exact iff_of_false nofun fun h => absurd h.1 (Nat.not_lt_zero _)

section Units

variable {op imm : Nat} {n : InstNo} {d : F32} {i : Instr}

theorem decodeSys_eq_ok (h : decodeSys op imm = .ok i) :
    (encode i).cmd = cmdWord 0 op 0 imm ∧ i.wellFormed = true := by
  unfold decodeSys at h
  split at h
  case h_5 => cases h
  all_goals
    obtain ⟨rfl, rfl⟩ := formZ_eq_ok_iff.1 h
    exact ⟨rfl, rfl⟩

theorem decodeEnv_eq_ok (h : decodeEnv op n imm d = .ok i) :
    (encode i).cmd = cmdWord 1 op n imm ∧ i.wellFormed = envInstOk n := by
  unfold decodeEnv at h
  split at h
  case h_13 => cases h
  all_goals
    obtain ⟨rfl, rfl⟩ := formZ_eq_ok_iff.1 h
    exact ⟨rfl, rfl⟩

theorem decodeOsc_eq_ok (h : decodeOsc op n imm d = .ok i) :
    (encode i).cmd = cmdWord 2 op n imm ∧ i.wellFormed = oscInstOk n := by
  unfold decodeOsc at h
  split at h
  case h_2 =>
    obtain ⟨note, rfl, rfl⟩ := formNote7_eq_ok_iff.1 h
    exact ⟨rfl, rfl⟩
  case h_7 =>
    obtain ⟨mode, rfl, rfl⟩ := formMode2_eq_ok_iff.1 h
    exact ⟨rfl, rfl⟩
  case h_8 => cases h
  all_goals
    obtain ⟨rfl, rfl⟩ := formZ_eq_ok_iff.1 h
    exact ⟨rfl, rfl⟩

theorem decodeFlt_eq_ok (h : decodeFlt op n imm d = .ok i) :
    (encode i).cmd = cmdWord 3 op n imm ∧ i.wellFormed = fltInstOk n := by
  unfold decodeFlt at h
  split at h
  case h_8 =>
    obtain ⟨mode, rfl, rfl⟩ := formBit1_eq_ok_iff.1 h
    exact ⟨rfl, rfl⟩
  case h_9 => cases h
  all_goals
    obtain ⟨rfl, rfl⟩ := formZ_eq_ok_iff.1 h
    exact ⟨rfl, rfl⟩

/-- What an operation decodes to is encoded with the same fields, and is well-formed when INST is in
range. -/
theorem decodeUnit_eq_ok {unit : Nat} (hn : n.toNat < unitCount unit)
    (h : decodeUnit unit op n imm d = .ok i) :
    (encode i).cmd = cmdWord unit op n imm ∧ i.wellFormed = true := by
  unfold decodeUnit at h
  split at h
  case h_1 =>
    obtain rfl := eq_zero_iff_lt_unitCount.2 hn
    exact decodeSys_eq_ok h
  case h_2 => exact (decodeEnv_eq_ok h).imp_right fun hw => hw.trans (decide_eq_true hn)
  case h_3 => exact (decodeOsc_eq_ok h).imp_right fun hw => hw.trans (decide_eq_true hn)
  case h_4 => exact (decodeFlt_eq_ok h).imp_right fun hw => hw.trans (decide_eq_true hn)
  case h_5 => cases h

end Units

/-- Settles O6: the encoder writes the fields the decoder read, and a word is the CMD word of its
fields. -/
theorem encodeOfDecodeIsTheWord : Obligations.EncodeOfDecodeIsTheWord := by
  intro c i h
  obtain ⟨hn, hunit⟩ := decode_eq_ok_iff.1 h
  obtain ⟨hcmd, hwf⟩ := decodeUnit_eq_ok hn hunit
  exact ⟨hcmd.trans (cmdWord_fields c.cmd), hwf⟩

/-- A CMD word decodes by the fields it was made of. -/
theorem decode_cmdWord {unit op imm : Nat} {n : InstNo} {d : Word} {i : Instr} (hu : unit < 16)
    (ho : op < 16) (hi : imm < 2 ^ 16) (hn : n.toNat < unitCount unit)
    (h : decodeUnit unit op n imm ⟨d⟩ = .ok i) : decode ⟨cmdWord unit op n imm, d⟩ = .ok i := by
  rw [decode_eq_ok_iff, unitField_cmdWord hu ho hi, opField_cmdWord hu ho hi,
    instField_cmdWord hu ho hi, immField_cmdWord hu ho hi]
  exact ⟨hn, h⟩

/-- Settles O5: a command's fields fit their places in CMD, so the decoder reads them back and
finds the command's own row. -/
theorem decodeOfEncodeIsTheInstruction : Obligations.DecodeOfEncodeIsTheInstruction := by
  intro i h
  cases i with
  | sysNop | sysRdStatus | sysClrStatus | sysReset =>
    exact decode_cmdWord (by decide) (by decide) (by decide) (by decide) rfl
  | oscSetNote n note =>
    exact decode_cmdWord (by decide) (by decide) (note.isLt.trans (by decide))
      (of_decide_eq_true h) (formNote7_eq_ok_iff.2 ⟨note, rfl, rfl⟩)
  | oscSetMode n mode =>
    exact decode_cmdWord (by decide) (by decide) (by cases mode <;> decide)
      (of_decide_eq_true h) (formMode2_eq_ok_iff.2 ⟨mode, rfl, rfl⟩)
  | fltSetLookup n mode =>
    exact decode_cmdWord (by decide) (by decide) (by cases mode <;> decide)
      (of_decide_eq_true h) (formBit1_eq_ok_iff.2 ⟨mode, rfl, rfl⟩)
  | _ => exact decode_cmdWord (by decide) (by decide) (by decide) (of_decide_eq_true h) rfl

/-! ### Legal words (R84) -/

/-- Every row of form `Z` is an operation of its unit. -/
theorem decodeUnit_of_zRow (n : InstNo) (d : F32) : ∀ row ∈ assignedOps, row.2.2 = .z →
    ∃ i, decodeUnit row.1 row.2.1 n 0 d = .ok i := by
  simp [assignedOps, decodeUnit, decodeSys, decodeEnv, decodeOsc, decodeFlt, formZ]

/-- Every row of the opcode map decodes with an IMM of its form. -/
theorem exists_decodeUnit_of_row {unit op imm : Nat} {form : ImmForm}
    (hrow : (unit, op, form) ∈ assignedOps) (hf : form.holds imm) (n : InstNo) (d : F32) :
    ∃ i, decodeUnit unit op n imm d = .ok i := by
  cases form with
  | z =>
    obtain rfl : imm = 0 := hf
    exact decodeUnit_of_zRow n d _ hrow rfl
  | note7 =>
    obtain ⟨rfl, rfl⟩ : unit = 2 ∧ op = 1 := by simpa [assignedOps] using hrow
    exact ⟨_, if_pos hf⟩
  | mode2 =>
    obtain ⟨rfl, rfl⟩ : unit = 2 ∧ op = 6 := by simpa [assignedOps] using hrow
    have himm : imm < 3 := hf
    interval_cases imm <;> exact ⟨_, rfl⟩
  | bit1 =>
    obtain ⟨rfl, rfl⟩ : unit = 3 ∧ op = 7 := by simpa [assignedOps] using hrow
    have himm : imm < 2 := hf
    interval_cases imm <;> exact ⟨_, rfl⟩

theorem instField_toNat (w : Word) : (instField w).toNat = w.toNat / 2 ^ 16 % 256 :=
  BitVec.toNat_ofNat ..

/-- R84 in the decoder's own fields. -/
theorem legalWord_iff {w : Word} : LegalWord w ↔
    ∃ form, (unitField w, opField w, form) ∈ assignedOps ∧
      (instField w).toNat < unitCount (unitField w) ∧ form.holds (immField w) := by
  rw [instField_toNat]
  constructor
  · rintro ⟨⟨unit, op, form⟩, hrow, rfl, rfl, hn, hf⟩
    exact ⟨form, hrow, hn, hf⟩
  · rintro ⟨form, hrow, hn, hf⟩
    exact ⟨_, hrow, rfl, rfl, hn, hf⟩

theorem exists_decode_of_legalWord {c : Command} (h : LegalWord c.cmd) :
    ∃ i, decode c = .ok i := by
  obtain ⟨form, hrow, hn, hf⟩ := legalWord_iff.1 h
  obtain ⟨i, hi⟩ := exists_decodeUnit_of_row hrow hf (instField c.cmd) ⟨c.data⟩
  exact ⟨i, decode_eq_ok_iff.2 ⟨hn, hi⟩⟩

/-- `Laws.EncodesLegalWord` of every command. -/
theorem legalWord_encode {i : Instr} (h : i.wellFormed = true) : LegalWord (encode i).cmd := by
  open Laws.EncodesLegalWord in
  cases i with
  | sysNop => exact sysNop h
  | sysRdStatus => exact sysRdStatus h
  | sysClrStatus => exact sysClrStatus h
  | sysReset => exact sysReset h
  | envInit n sampleRate => exact envInit n sampleRate h
  | envSetAttack n seconds => exact envSetAttack n seconds h
  | envAddAttack n seconds => exact envAddAttack n seconds h
  | envSetDecay n seconds => exact envSetDecay n seconds h
  | envAddDecay n seconds => exact envAddDecay n seconds h
  | envSetScale n amount => exact envSetScale n amount h
  | envSetCurve n exponent => exact envSetCurve n exponent h
  | envTrigger n => exact envTrigger n h
  | envRelease n => exact envRelease n h
  | envProcess n => exact envProcess n h
  | envGetLast n => exact envGetLast n h
  | envGetStage n => exact envGetStage n h
  | oscInit n sampleRate => exact oscInit n sampleRate h
  | oscSetNote n note => exact oscSetNote n note h
  | oscSetFreq n hz => exact oscSetFreq n hz h
  | oscSetAmp n amount => exact oscSetAmp n amount h
  | oscSetDetune n amount => exact oscSetDetune n amount h
  | oscProcess n => exact oscProcess n h
  | oscSetMode n mode => exact oscSetMode n mode h
  | fltInit n sampleRate => exact fltInit n sampleRate h
  | fltSetFreq n position => exact fltSetFreq n position h
  | fltAddFreq n position => exact fltAddFreq n position h
  | fltSetQ n position => exact fltSetQ n position h
  | fltGetFreq n => exact fltGetFreq n h
  | fltGetQ n => exact fltGetQ n h
  | fltProcess n sample => exact fltProcess n sample h
  | fltSetLookup n mode => exact fltSetLookup n mode h

/-- Settles O4: a decoded record has the CMD word of a well-formed command, and every row of the
opcode map decodes with an IMM of its form. -/
theorem decoderAcceptsExactlyTheLegalWords : Obligations.DecoderAcceptsExactlyTheLegalWords := by
  refine fun c => ⟨?_, exists_decode_of_legalWord⟩
  rintro ⟨i, h⟩
  obtain ⟨hcmd, hwf⟩ := encodeOfDecodeIsTheWord c i h
  exact hcmd ▸ legalWord_encode hwf

/-- Settles O8: each listed word is evaluated. -/
theorem listedWordsDecode : Obligations.ListedWordsDecode :=
  ⟨rfl, rfl, rfl, rfl, rfl, rfl, rfl, rfl, rfl, rfl, rfl, rfl, rfl, rfl⟩

end Sys2Proof

namespace Sys2Proof.Machine

/-! ### Illegal words (R85) -/

theorem runCommand_of_decode_error {c : Command} {e : DecodeError} (h : decode c = .error e)
    (s : State) : runCommand c s = .next (setIllegal s) := by
  rw [runCommand, h]

theorem runCommand_of_not_legalWord {c : Command} (h : ¬ LegalWord c.cmd) (s : State) :
    runCommand c s = .next (setIllegal s) := by
  cases hd : decode c with
  | ok i => exact absurd ((decoderAcceptsExactlyTheLegalWords c).1 ⟨i, hd⟩) h
  | error e => exact runCommand_of_decode_error hd s

/-- Settles O2: the decoder rejects the word, and every rejection runs `set_illegal()`. -/
theorem illegalWordSetsOnlyTheIllegalBit : Obligations.IllegalWordSetsOnlyTheIllegalBit := by
  refine fun c s h => ⟨runCommand_of_not_legalWord h s, fun rest hport => ?_⟩
  rw [step_of_port_cons hport]
  exact runCommand_of_not_legalWord h _

/-- Settles O49, by the two branches of the expansion. -/
theorem noteOnExpandsByVelocity : Obligations.NoteOnExpandsByVelocity :=
  fun _ _ => ⟨if_pos rfl, fun hv => if_neg hv⟩

end Sys2Proof.Machine
end

section
/-! SUPPORT. Every command completes from a legal state: a legal position indexes inside the grid,
so the one command that can stop, `FLT.PROCESS`, finds its coefficients (42_filter.md R195,
60_exceptions.md R260). -/

namespace Sys2Proof.Machine

/-! ### Legal positions on the grid (R195) -/

section Grid

variable {x : F32} {steps : Nat}

/-- The last step of either axis is a small whole number, which binary32 holds exactly. -/
theorem ofInt_lastStep (hs : steps = Config.FS ∨ steps = Config.RS) :
    (F32.ofInt (steps - 1 : Nat)).Nonneg ∧
      (F32.ofInt (steps - 1 : Nat)).mag = (steps - 1) * 2 ^ 149 ∧ 0 < steps := by
  unfold F32.Nonneg
  obtain rfl | rfl := hs <;> decide

theorem gridPosition_within (hx : F32Within F32.zero Config.ONE x)
    (hs : steps = Config.FS ∨ steps = Config.RS) :
    F32Within F32.zero (F32.ofInt (steps - 1 : Nat)) (gridPosition x steps) := by
  have hlast := (ofInt_lastStep hs).1
  exact mul_unit_within hx (lo := F32.zero) ⟨hlast.1, Nat.zero_le _, le_rfl⟩ hlast.2

theorem floorInt_of_nonneg (hx : x.Nonneg) : x.floorInt = some (x.mag / 2 ^ 149) := by
  have hge : F32.zero.le x = true := (zero_nonneg.le_iff hx).2 (Nat.zero_le _)
  simp [F32.floorInt, hx.finite, hge]

/-- The floor of a position on an axis is one of its steps. -/
theorem gridFloor_lt (hx : F32Within F32.zero Config.ONE x)
    (hs : steps = Config.FS ∨ steps = Config.RS) :
    (gridPosition x steps).mag / 2 ^ 149 < steps := by
  obtain ⟨hlast, hmag, hpos⟩ := ofInt_lastStep hs
  obtain ⟨-, hle⟩ := (gridPosition_within hx hs).mag_le hlast.2
  rw [hmag] at hle
  exact (Nat.div_le_of_le_mul (by omega)).trans_lt (Nat.sub_lt hpos Nat.one_pos)

/-- A legal position has the two steps around it and the weight of R195. -/
theorem gridIndex_of_within (hx : F32Within F32.zero Config.ONE x)
    (hs : steps = Config.FS ∨ steps = Config.RS) :
    gridIndex x steps = some
      { k0 := ⟨(gridPosition x steps).mag / 2 ^ 149, gridFloor_lt hx hs⟩
        k1 := ⟨min ((gridPosition x steps).mag / 2 ^ 149 + 1) (steps - 1), by
          have := gridFloor_lt hx hs
          omega⟩
        w := F32.sub (gridPosition x steps)
          (F32.ofInt ((gridPosition x steps).mag / 2 ^ 149 : Nat)) } := by
  have hn : (gridPosition x steps).Nonneg :=
    .of_within (gridPosition_within hx hs) (ofInt_lastStep hs).1.2
  rw [gridIndex, floorInt_of_nonneg hn]
  exact dif_pos (gridFloor_lt hx hs)

end Grid

theorem lookup_eq_some {t : Table} {f : FltUnit} {gi : GridIndex Config.FS}
    {gj : GridIndex Config.RS} (hi : gridIndex (effectiveCutoff f) Config.FS = some gi)
    (hj : gridIndex f.resonancePosition Config.RS = some gj) :
    lookup t f = some (coefficientsAt t f.interp gi gj) := by
  unfold lookup
  rw [hi, hj]

/-- A legal resonance position is enough: the effective cutoff is clamped. -/
theorem exists_lookup {f : FltUnit} (hr : F32Within F32.zero Config.ONE f.resonancePosition)
    (t : Table) : ∃ c, lookup t f = some c :=
  ⟨_, lookup_eq_some (gridIndex_of_within (unitOperand_within _) (.inl rfl))
    (gridIndex_of_within hr (.inr rfl))⟩

/-! ### Commands complete -/

section Complete

variable (n : InstNo) (s : State)

theorem withEnv_completes (f : EnvUnit → State) :
    ∃ t, withEnv n s (fun e => .next (f e)) = .next t := by
  unfold withEnv
  split <;> exact ⟨_, rfl⟩

theorem withOsc_completes (f : OscUnit → State) :
    ∃ t, withOsc n s (fun o => .next (f o)) = .next t := by
  unfold withOsc
  split <;> exact ⟨_, rfl⟩

theorem withFlt_completes (f : FltUnit → State) :
    ∃ t, withFlt n s (fun u => .next (f u)) = .next t := by
  unfold withFlt
  split <;> exact ⟨_, rfl⟩

variable {n s}

theorem fltProcess_completes (hs : s.Inv) (x : F32) :
    ∃ t, execFltProcess n x s = .next t := by
  by_cases hn : n.toNat < Config.NUM_FLT
  · obtain ⟨c, hc⟩ := exists_lookup (hs.flt ⟨_, hn⟩).resonancePosition s.tab
    rw [Fin.getElem_fin] at hc
    rw [execFltProcess, withFlt_inRange hn, hc]
    exact ⟨_, rfl⟩
  · exact ⟨_, withFlt_outOfRange hn⟩

/-- From a legal state every command answers a next state, and a legal one. -/
theorem exec_completes (hs : s.Inv) (i : Instr) : ∃ t, exec i s = .next t ∧ t.Inv := by
  suffices h : ∃ t, exec i s = .next t from h.imp fun _ ht => ⟨ht, exec_inv hs ht⟩
  unfold exec
  cases i with
  | sysNop | sysRdStatus | sysClrStatus | sysReset => exact ⟨_, rfl⟩
  | envInit | envSetAttack | envAddAttack | envSetDecay | envAddDecay | envSetScale | envSetCurve
  | envTrigger | envRelease | envProcess | envGetLast | envGetStage =>
    exact withEnv_completes _ _ _
  | oscInit | oscSetNote | oscSetFreq | oscSetAmp | oscSetDetune | oscProcess | oscSetMode =>
    exact withOsc_completes _ _ _
  | fltProcess n x => exact fltProcess_completes hs x
  | fltInit | fltSetFreq | fltAddFreq | fltSetQ | fltGetFreq | fltGetQ | fltSetLookup =>
    exact withFlt_completes _ _ _

end Complete

/-- Settles O50: each of the eight commands completes from the legal state the one before it left,
and `frame` is their sequence. -/
theorem frameCompletesFromLegalStates : Obligations.FrameCompletesFromLegalStates := by
  intro s hs
  obtain ⟨s1, h1, hs1⟩ := exec_completes hs (.envProcess 0#8)
  obtain ⟨s2, h2, hs2⟩ := exec_completes hs1 (.oscSetAmp 0#8 ⟨s1.resp0⟩)
  obtain ⟨s3, h3, hs3⟩ := exec_completes hs2 (.envProcess 1#8)
  obtain ⟨s4, h4, hs4⟩ := exec_completes hs3 (.fltAddFreq 0#8 ⟨s3.resp0⟩)
  obtain ⟨s5, h5, hs5⟩ := exec_completes hs4 (.fltAddFreq 1#8 ⟨s3.resp0⟩)
  obtain ⟨s6, h6, hs6⟩ := exec_completes hs5 (.oscProcess 0#8)
  obtain ⟨s7, h7, hs7⟩ := exec_completes hs6 (.fltProcess 0#8 ⟨s6.resp0⟩)
  obtain ⟨s8, h8, hs8⟩ := exec_completes hs7 (.fltProcess 1#8 ⟨s6.resp1⟩)
  refine ⟨s1, s2, s3, s4, s5, s6, s7, s8, h1, h2, h3, h4, h5, h6, h7, h8, ?_, hs8⟩
  rw [frame, andThen_of_next h1, andThen_of_next h2, andThen_of_next h3, andThen_of_next h4,
    andThen_of_next h5, andThen_of_next h6, andThen_of_next h7, andThen_of_next h8]

end Sys2Proof.Machine
end

section
/-! SUPPORT. The ENV commands one by one (40_envelope.md R111 to R122): the CMD word of each, and
what it leaves in the envelope it names. -/

namespace Sys2Proof.Machine

/-! ### The words and the writes of ENV commands -/

section Commands

variable {n : InstNo} {s t : State}

/-- The CMD pattern of the operation `op` of UNIT 1 decodes to that operation, with any DATA. -/
theorem decode_envAt {x : Word} {i : Instr} (op : Nat) (hn : n.toNat < Config.NUM_ENV)
    (hop : op < 16) (h : decodeEnv op n 0 ⟨x⟩ = .ok i) :
    decode ⟨cmdAt (0x10000000 + op * 0x01000000) n 0, x⟩ = .ok i :=
  decode_cmdWord (unit := 1) (by decide) hop (by decide) hn h

theorem setEnv_eq_putEnv (hn : n.toNat < Config.NUM_ENV) (e : EnvUnit) :
    setEnv s n e = putEnv s n hn e := by
  have henv : s.env.setIfInBounds n.toNat e = s.env.set n.toNat e hn :=
    Vector.ext fun m hm => by rw [Vector.getElem_setIfInBounds, Vector.getElem_set]
  rw [setEnv, henv, putEnv]

/-- A command that writes its envelope in range changes the state by that write alone. -/
theorem withEnv_setEnv (hn : n.toNat < Config.NUM_ENV) (f : EnvUnit → EnvUnit) :
    withEnv n s (fun e => .next (setEnv s n (f e))) = .next (putEnv s n hn (f s.env[n.toNat])) := by
  rw [withEnv_inRange hn, setEnv_eq_putEnv hn]

/-- A read-back in range changes RESP0 alone. -/
theorem withEnv_respond0 (hn : n.toNat < Config.NUM_ENV) (f : EnvUnit → Word) :
    withEnv n s (fun e => .next (respond0 s (f e))) = .next { s with resp0 := f s.env[n.toNat] } :=
  withEnv_inRange hn

end Commands

/-! ### The branches of one sample (R120), of a trigger (R118) and of a release (R119) -/

section Branches

variable {e : EnvUnit}

theorem envSample_of_off (h : e.stage = .off) :
    envSample e = { e with lastOutput := F32.zero } := by
  simp only [envSample, h]

theorem envSample_of_attack (h : e.stage = .attack) : envSample e = attackSample e := by
  simp only [envSample, h]

theorem envSample_of_decay (h : e.stage = .decay) : envSample e = decaySample e := by
  simp only [envSample, h]

theorem attackSample_of_ge (h : (attackRamp e).ge Config.ONE = true) : attackSample e =
    { e with stage := .decay, stageTime := F32.zero, lastOutput := Config.ONE } := if_pos h

theorem attackSample_of_not_ge (h : (attackRamp e).ge Config.ONE = false) : attackSample e =
    { e with stageTime := nextStageTime e, lastOutput := attackRamp e } := if_neg (by simp [h])

theorem decaySample_of_le (h : (decayRamp e).le Config.ENV_OFF_LEVEL = true) : decaySample e =
    { e with stage := .off, stageTime := F32.zero, lastOutput := F32.zero } := if_pos h

theorem decaySample_of_not_le (h : (decayRamp e).le Config.ENV_OFF_LEVEL = false) : decaySample e =
    { e with stageTime := nextStageTime e, lastOutput := decayRamp e } := if_neg (by simp [h])

theorem lastOutput_attackSample (e : EnvUnit) : (attackSample e).lastOutput =
    if (attackRamp e).ge Config.ONE then Config.ONE else attackRamp e := by
  unfold attackSample
  split_ifs <;> rfl

theorem lastOutput_decaySample (e : EnvUnit) : (decaySample e).lastOutput =
    if (decayRamp e).le Config.ENV_OFF_LEVEL then F32.zero else decayRamp e := by
  unfold decaySample
  split_ifs <;> rfl

theorem outputScale_envSample (e : EnvUnit) : (envSample e).outputScale = e.outputScale := by
  unfold envSample attackSample decaySample
  split
  · rfl
  · split <;> rfl
  · split <;> rfl

theorem envTriggered_eq (e : EnvUnit) : envTriggered e =
    { e with
      stage := .attack
      stageTime := if e.lastOutput.gt F32.zero
        then F32.mul e.lastOutput (attackLength e) else F32.zero } := by
  unfold envTriggered
  split_ifs <;> rfl

theorem envReleased_of_attack (h : e.stage = .attack) :
    envReleased e = { e with stage := .decay, stageTime := F32.zero } := by
  simp only [envReleased, h]

theorem envReleased_of_ne_attack (h : e.stage ≠ .attack) : envReleased e = e := by
  unfold envReleased
  split
  · next ha => exact absurd ha h
  · rfl
  · rfl

end Branches

/-! ### Setters, TRIGGER, RELEASE, PROCESS and the read-backs -/

/-- Settles O14: INIT is its word, and its body is the ten values listed. -/
theorem envInitWritesEveryField : Obligations.EnvInitWritesEveryField := fun _ d _ h =>
  ⟨decode_envAt 0 h (by decide) rfl, withEnv_setEnv h fun _ => envInitBody d⟩

/-- Settles O15: each of the four is its word and one write of one clamped field. -/
theorem envTimesAreClampedAndStored : Obligations.EnvTimesAreClampedAndStored := fun _ d _ h =>
  ⟨decode_envAt 1 h (by decide) rfl,
   withEnv_setEnv h fun e => { e with attackTime := timeOperand d },
   decode_envAt 3 h (by decide) rfl,
   withEnv_setEnv h fun e => { e with decayTime := timeOperand d },
   decode_envAt 2 h (by decide) rfl,
   withEnv_setEnv h fun e => { e with attackAdd := addOperand d },
   decode_envAt 4 h (by decide) rfl,
   withEnv_setEnv h fun e => { e with decayAdd := addOperand d }⟩

/-- Settles O16: each of the two is its word and one write of one clamped field. -/
theorem envScaleAndCurveAreClampedAndStored : Obligations.EnvScaleAndCurveAreClampedAndStored :=
  fun _ d _ h =>
    ⟨decode_envAt 5 h (by decide) rfl,
     withEnv_setEnv h fun e => { e with outputScale := unitOperand d },
     decode_envAt 6 h (by decide) rfl,
     withEnv_setEnv h fun e => { e with curveExponent := curveOperand d }⟩

theorem exec_envTrigger {n : InstNo} (s : State) (hn : n.toNat < Config.NUM_ENV) :
    exec (.envTrigger n) s = .next (putEnv s n hn (envTriggered s.env[n.toNat])) :=
  withEnv_setEnv hn envTriggered

theorem exec_envRelease {n : InstNo} (s : State) (hn : n.toNat < Config.NUM_ENV) :
    exec (.envRelease n) s = .next (putEnv s n hn (envReleased s.env[n.toNat])) :=
  withEnv_setEnv hn envReleased

/-- Settles O17: both branches of a trigger enter the attack, and differ in the time alone. -/
theorem envTriggerSeedsTheAttack : Obligations.EnvTriggerSeedsTheAttack := by
  intro n x s h e
  refine ⟨decode_envAt 7 h (by decide) rfl, ?_⟩
  rw [exec_envTrigger s h, envTriggered_eq]
  rfl

/-- Settles O18: outside the attack the envelope is written back as it is. -/
theorem envReleaseEndsOnlyAnAttack : Obligations.EnvReleaseEndsOnlyAnAttack := by
  intro n x s h
  refine ⟨decode_envAt 8 h (by decide) rfl, fun ha => ?_, fun hne => ?_⟩
  · rw [exec_envRelease s h, envReleased_of_attack ha]
  · rw [exec_envRelease s h, envReleased_of_ne_attack hne, putEnv, Vector.set_getElem_self]

/-- Settles O19: PROCESS writes the sample and answers it scaled; each clause is one branch of the
sample. -/
theorem envProcessAdvancesOneSample : Obligations.EnvProcessAdvancesOneSample := by
  intro n x s h e st up down answer
  have hexec : exec (.envProcess n) s = answer (envSample e) := by
    rw [exec_envProcess s h, setEnv_eq_putEnv h, envOutput, outputScale_envSample]
    rfl
  refine ⟨decode_envAt 9 h (by decide) rfl, fun hs => ?_, fun hs hr => ?_, fun hs hr => ?_,
    fun hs hr => ?_, fun hs hr => ?_⟩
  · rw [hexec, envSample_of_off hs]
  · rw [hexec, envSample_of_attack hs, attackSample_of_ge hr]
  · rw [hexec, envSample_of_attack hs, attackSample_of_not_ge hr]
    rfl
  · rw [hexec, envSample_of_decay hs, decaySample_of_le hr]
  · rw [hexec, envSample_of_decay hs, decaySample_of_not_le hr]
    rfl

/-- Settles O20: each read-back is its word and the one write of RESP0. -/
theorem envReadbacksAnswerTheirField : Obligations.EnvReadbacksAnswerTheirField :=
  fun _ _ _ h =>
    ⟨decode_envAt 10 h (by decide) rfl, withEnv_respond0 h fun e => e.lastOutput.bits,
     decode_envAt 11 h (by decide) rfl, withEnv_respond0 h fun e => stageCode e.stage⟩

end Sys2Proof.Machine
end

section
/-! SUPPORT. The stages (40_envelope.md R110 and R125) and the order of two successive samples
(R124). -/

namespace Sys2Proof.Machine

/-! ### What a command leaves in the envelope it names -/

/-- The envelope that an ENV command leaves in the place of `e`. -/
def envAfter (e : EnvUnit) : Instr → EnvUnit
  | .envInit _ d => envInitBody d
  | .envSetAttack _ d => { e with attackTime := timeOperand d }
  | .envAddAttack _ d => { e with attackAdd := addOperand d }
  | .envSetDecay _ d => { e with decayTime := timeOperand d }
  | .envAddDecay _ d => { e with decayAdd := addOperand d }
  | .envSetScale _ d => { e with outputScale := unitOperand d }
  | .envSetCurve _ d => { e with curveExponent := curveOperand d }
  | .envTrigger _ => envTriggered e
  | .envRelease _ => envReleased e
  | .envProcess _ => envSample e
  | _ => e

section Commands

variable {n : InstNo} {i : Instr} {s t : State}

theorem eq_of_withEnv {f : EnvUnit → State} (hn : n.toNat < Config.NUM_ENV)
    (h : withEnv n s (fun e => .next (f e)) = .next t) : t = f s.env[n.toNat] := by
  rw [withEnv_inRange hn] at h
  cases h
  rfl

theorem setEnv_getElem_self (hn : n.toNat < Config.NUM_ENV) (e : EnvUnit) :
    (setEnv s n e).env[n.toNat] = e :=
  (setEnv_getElem s n e n.toNat hn).trans (if_pos rfl)

/-- `envAfter` is what `exec` leaves. -/
theorem exec_env_getElem (h : exec i s = .next t) (ht : target i = .env n)
    (hn : n.toNat < Config.NUM_ENV) : t.env[n.toNat] = envAfter s.env[n.toNat] i := by
  unfold exec at h
  cases i with
  | envGetLast | envGetStage =>
    cases ht
    rw [eq_of_withEnv hn h]
    rfl
  | envInit | envSetAttack | envAddAttack | envSetDecay | envAddDecay | envSetScale | envSetCurve
  | envTrigger | envRelease | envProcess =>
    cases ht
    rw [eq_of_withEnv hn h]
    exact setEnv_getElem_self hn _
  | _ => cases ht

end Commands

/-! ### Stage transitions (R110) -/

section Stages

variable {e : EnvUnit}

theorem stage_envTriggered (e : EnvUnit) : (envTriggered e).stage = .attack := by
  rw [envTriggered_eq]

theorem stage_envReleased (h : (envReleased e).stage ≠ e.stage) :
    e.stage = .attack ∧ (envReleased e).stage = .decay := by
  by_cases ha : e.stage = .attack
  · exact ⟨ha, by rw [envReleased_of_attack ha]⟩
  · exact absurd (by rw [envReleased_of_ne_attack ha]) h

/-- A sample leaves its stage only at the stage's end. -/
theorem stage_envSample (h : (envSample e).stage ≠ e.stage) :
    (e.stage = .attack ∧ (envSample e).stage = .decay) ∨
      (e.stage = .decay ∧ (envSample e).stage = .off) := by
  cases hs : e.stage with
  | off => exact absurd (by rw [envSample_of_off hs]) h
  | attack =>
    rw [envSample_of_attack hs] at h ⊢
    cases hr : (attackRamp e).ge Config.ONE
    · exact absurd (by rw [attackSample_of_not_ge hr]) h
    · exact .inl ⟨rfl, by rw [attackSample_of_ge hr]⟩
  | decay =>
    rw [envSample_of_decay hs] at h ⊢
    cases hr : (decayRamp e).le Config.ENV_OFF_LEVEL
    · exact absurd (by rw [decaySample_of_not_le hr]) h
    · exact .inr ⟨rfl, by rw [decaySample_of_le hr]⟩

end Stages

/-- Settles O21: only reset, or an ENV command that names the envelope, can reach its stage; of
those only INIT, TRIGGER, RELEASE and PROCESS write a stage. -/
theorem stagesChangeOnlyAsTabled : Obligations.StagesChangeOnlyAsTabled := by
  intro i s t m h hne
  by_cases hr : i = .sysReset
  · subst hr
    cases h
    exact .inl ⟨rfl, by simp [envInitBody]⟩
  obtain ⟨n, ht, hnm⟩ : ∃ n, target i = .env n ∧ n.toNat = m := by
    by_contra hno
    have hkept := (exec_effect h).env_of_ne hr m fun n ht hnm => hno ⟨n, ht, hnm⟩
    exact hne (by rw [hkept])
  obtain ⟨m, hm⟩ := m
  obtain rfl : n.toNat = m := hnm
  have hafter : t.env[n.toNat] = envAfter s.env[n.toNat] i := exec_env_getElem h ht hm
  simp only [Fin.getElem_fin] at hne ⊢
  rw [hafter] at hne ⊢
  refine .inr ⟨n, rfl, ?_⟩
  cases i with
  | envInit _ d =>
    cases ht
    exact .inl ⟨d, rfl, rfl⟩
  | envTrigger =>
    cases ht
    exact .inr (.inl ⟨rfl, stage_envTriggered _⟩)
  | envRelease =>
    cases ht
    exact .inr (.inr (.inl ⟨rfl, stage_envReleased hne⟩))
  | envProcess =>
    cases ht
    exact .inr (.inr (.inr ((stage_envSample hne).imp (⟨rfl, ·⟩) (⟨rfl, ·⟩))))
  | _ => exact absurd rfl hne

/-- Settles O22: the trigger leaves an attack seeded at `RN(v T)`, whose next sample is the ramp or
its end. -/
theorem retriggerRestartsOnTheRamp : Obligations.RetriggerRestartsOnTheRamp := by
  intro n s h e len ramp hv
  have ht := exec_envTrigger s h
  have hu := exec_envProcess (putEnv s n h (envTriggered e)) h
  refine ⟨_, _, ht, hu, ?_⟩
  have htrig : (putEnv s n h (envTriggered e)).env[n.toNat] = envTriggered e :=
    exec_env_getElem ht rfl h
  have hramp : attackRamp (envTriggered e) = ramp := by
    rw [envTriggered_eq, if_pos hv]
    rfl
  rw [exec_env_getElem hu rfl h, htrig, envAfter, envSample_of_attack (stage_envTriggered e),
    lastOutput_attackSample, hramp]

end Sys2Proof.Machine
end

section
/-! SUPPORT. Binary32 operations keep the order of nonnegative finite operands. -/

namespace Sys2Proof

open Sys2Proof.Machine

section Order

variable {x y z : F32}

theorem low_le_low_add (hx : x.Nonneg) (hy : y.Nonneg) : x.low ≤ (F32.add x y).low := by
  rw [(add_nonneg_spec hx hy).2]
  refine le_roundMag_of_le Nat.one_pos hx.2 ?_
  rw [Nat.mul_one]
  exact Nat.le_add_right x.mag y.mag

theorem low_div_le_low_div (hx : x.Nonneg) (hy : y.Nonneg) (hz : z.Nonneg) (h0 : 0 < z.low)
    (h : x.low ≤ y.low) : (F32.div x z).low ≤ (F32.div y z).low := by
  have hmag : x.mag ≤ y.mag := (hx.mag_le_iff hy).2 h
  rw [(div_nonneg_spec hx hz h0).2, (div_nonneg_spec hy hz h0).2]
  exact roundMag_mono (hz.mag_pos h0) (hz.mag_pos h0) (by gcongr)

theorem low_min1_le_low_min1 (hx : x.Nonneg) (hy : y.Nonneg) (h : x.low ≤ y.low) :
    (F32.min1 x).low ≤ (F32.min1 y).low := by
  have hgx : x.gt F32.one = true ↔ Config.ONE.low < x.low := one_nonneg.lt_iff hx
  have hgy : y.gt F32.one = true ↔ Config.ONE.low < y.low := one_nonneg.lt_iff hy
  unfold F32.min1
  split_ifs with h1 h2 h2
  · exact le_rfl
  · exact absurd (hgy.2 ((hgx.1 h1).trans_le h)) h2
  · exact not_lt.1 fun hlt => h1 (hgx.2 hlt)
  · exact h

theorem low_one_sub_le_low_one_sub (hx : F32Within F32.zero Config.ONE x)
    (hy : F32Within F32.zero Config.ONE y) (h : x.low ≤ y.low) :
    (F32.sub Config.ONE y).low ≤ (F32.sub Config.ONE x).low := by
  have hxn : x.Nonneg := .of_within hx one_low_lt
  have hyn : y.Nonneg := .of_within hy one_low_lt
  have hmag : x.mag ≤ y.mag := (hxn.mag_le_iff hyn).2 h
  rw [(sub_nonneg_spec one_nonneg hyn hy.2.2).2, (sub_nonneg_spec one_nonneg hxn hx.2.2).2]
  exact roundMag_mono Nat.one_pos Nat.one_pos (by omega)

end Order

end Sys2Proof

namespace Sys2Proof.Machine

section Linear

variable {e e' : EnvUnit}

/-! ### A sample that does not end its stage -/

theorem envSample_in_attack (hs : e.stage = .attack) (hs' : (envSample e).stage = .attack) :
    envSample e = { e with stageTime := nextStageTime e, lastOutput := attackRamp e } := by
  rw [envSample_of_attack hs] at hs' ⊢
  cases hr : (attackRamp e).ge Config.ONE
  · exact attackSample_of_not_ge hr
  · rw [attackSample_of_ge hr] at hs'
    cases hs'

theorem envSample_in_decay (hs : e.stage = .decay) (hs' : (envSample e).stage = .decay) :
    envSample e = { e with stageTime := nextStageTime e, lastOutput := decayRamp e } := by
  rw [envSample_of_decay hs] at hs' ⊢
  cases hr : (decayRamp e).le Config.ENV_OFF_LEVEL
  · exact decaySample_of_not_le hr
  · rw [decaySample_of_le hr] at hs'
    cases hs'

/-! ### Linear ramps: at the exponent 1.0 the power is its base -/

theorem EnvUnit.Legal.sampleIncrement_nonneg (he : e.Legal) : e.sampleIncrement.Nonneg := by
  obtain ⟨sr, hsr, hinc⟩ := he.sampleIncrement
  rw [hinc]
  exact .of_within (sampleIncrement_belowOne hsr).within one_low_lt

theorem attackRamp_of_linear (he : e.Legal) (hc : e.curveExponent = Config.ONE) :
    attackRamp e = F32.div (nextStageTime e) (attackLength e) := by
  rw [attackRamp, hc, POW_one (ramp_nonneg he.nextStageTime he.attackLength)]

theorem decayRamp_of_linear (he : e.Legal) (hc : e.curveExponent = Config.ONE) :
    decayRamp e =
      F32.sub Config.ONE (F32.min1 (F32.div (nextStageTime e) (decayLength e))) := by
  have hbase := one_sub_within (min1_within (ramp_nonneg he.nextStageTime he.decayLength))
  rw [decayRamp, hc, POW_one (.of_within hbase one_low_lt)]

/-- The share of a stage that has passed does not shrink from one sample to the next. -/
theorem stageShare_le_next (he : e.Legal) (he' : e'.Legal) (ht : e'.stageTime = nextStageTime e)
    {length : F32} (hl : F32Within Config.ENV_TIME_MIN maxStageLength length) :
    (F32.div (nextStageTime e) length).low ≤ (F32.div (nextStageTime e') length).low := by
  have hn : (nextStageTime e).Nonneg := .of_within he.nextStageTime (by decide)
  have hn' : (nextStageTime e').Nonneg := .of_within he'.nextStageTime (by decide)
  have hgrow : (nextStageTime e).low ≤ (nextStageTime e').low := by
    rw [← ht] at hn ⊢
    exact low_le_low_add hn he'.sampleIncrement_nonneg
  have hpos : 0 < length.low := lt_of_lt_of_le (by decide) hl.2.1
  exact low_div_le_low_div hn hn' (.of_within hl maxStageLength_low_lt) hpos hgrow

theorem attackRamp_le_next (he : e.Legal) (he' : e'.Legal) (hc : e.curveExponent = Config.ONE)
    (h : e' = { e with stageTime := nextStageTime e, lastOutput := attackRamp e }) :
    (attackRamp e).low ≤ (attackRamp e').low := by
  have hc' : e'.curveExponent = Config.ONE := by rw [h, hc]
  have hlen : attackLength e' = attackLength e := by rw [h]; rfl
  rw [attackRamp_of_linear he hc, attackRamp_of_linear he' hc', hlen]
  exact stageShare_le_next he he' (by rw [h]) he.attackLength

theorem next_le_decayRamp (he : e.Legal) (he' : e'.Legal) (hc : e.curveExponent = Config.ONE)
    (h : e' = { e with stageTime := nextStageTime e, lastOutput := decayRamp e }) :
    (decayRamp e').low ≤ (decayRamp e).low := by
  have hc' : e'.curveExponent = Config.ONE := by rw [h, hc]
  have hlen : decayLength e' = decayLength e := by rw [h]; rfl
  have hshare := stageShare_le_next he he' (by rw [h]) he.decayLength
  have hr := ramp_nonneg he.nextStageTime he.decayLength
  have hr' := ramp_nonneg he'.nextStageTime he.decayLength
  rw [decayRamp_of_linear he hc, decayRamp_of_linear he' hc', hlen]
  exact low_one_sub_le_low_one_sub (min1_within hr) (min1_within hr')
    (low_min1_le_low_min1 hr hr' hshare)

/-! ### Two samples of one stage -/

theorem EnvUnit.Legal.lastOutput_nonneg (he : e.Legal) : e.lastOutput.Nonneg :=
  .of_within he.lastOutput one_low_lt

theorem envSample_le_next_of_attack (he : e.Legal) (hc : e.curveExponent = Config.ONE)
    (hs : e.stage = .attack) (hs' : (envSample e).stage = .attack) :
    F32.le (envSample e).lastOutput (envSample (envSample e)).lastOutput = true := by
  have he' := envSample_legal he
  have heq := envSample_in_attack hs hs'
  have hlast : (envSample e).lastOutput = attackRamp e := by rw [heq]
  rw [he'.lastOutput_nonneg.le_iff (envSample_legal he').lastOutput_nonneg,
    envSample_of_attack hs', lastOutput_attackSample]
  split_ifs
  · exact he'.lastOutput.2.2
  · rw [hlast]
    exact attackRamp_le_next he he' hc heq

theorem next_le_envSample_of_decay (he : e.Legal) (hc : e.curveExponent = Config.ONE)
    (hs : e.stage = .decay) (hs' : (envSample e).stage = .decay) :
    F32.le (envSample (envSample e)).lastOutput (envSample e).lastOutput = true := by
  have he' := envSample_legal he
  have heq := envSample_in_decay hs hs'
  have hlast : (envSample e).lastOutput = decayRamp e := by rw [heq]
  rw [(envSample_legal he').lastOutput_nonneg.le_iff he'.lastOutput_nonneg,
    envSample_of_decay hs', lastOutput_decaySample]
  split_ifs
  · exact Nat.zero_le _
  · rw [hlast]
    exact next_le_decayRamp he he' hc heq

end Linear

/-- Settles O24: at the exponent 1.0 a ramp is the passed share of its stage, or 1.0 less it, and
the share grows with the time; 1.0 and +0.0 bound every output. -/
theorem linearAttackNeverFalls : Obligations.LinearAttackNeverFalls := by
  intro n s t u hn hs hc ht hu
  have he : s.env[n.toNat].Legal := hs.env ⟨n.toNat, hn⟩
  have htenv : t.env[n.toNat] = envSample s.env[n.toNat] := exec_env_getElem ht rfl hn
  have huenv : u.env[n.toNat] = envSample t.env[n.toNat] := exec_env_getElem hu rfl hn
  rw [huenv, htenv]
  exact ⟨envSample_le_next_of_attack he hc, next_le_envSample_of_decay he hc⟩

end Sys2Proof.Machine
end

section
/-! SUPPORT. The phase advance (41_oscillator.md R159): the sum of a phase and an increment that
reaches 1.0 is a whole number of steps of its binade, and so is 1.0, so that the wrap is exact. -/

namespace Sys2Proof

/-- A whole number of steps `2 ^ s` that fits a significand is the magnitude of a finite pattern. -/
theorem exists_magOf_eq_steps {s n : Nat} (hn : n < 2 ^ 24) (hs : s ≤ 253) :
    ∃ low < F32.infLow, F32.magOf low = n * 2 ^ s := by
  have hinf : F32.infLow = 255 * 2 ^ 23 := rfl
  induction s generalizing n with
  | zero => exact ⟨n, by omega, by rw [magOf_of_lt hn, pow_zero, Nat.mul_one]⟩
  | succ s ih =>
    by_cases hnorm : 2 ^ 23 ≤ n
    · exact ⟨(s + 1) * 2 ^ 23 + n, by omega, magOf_steps hn.le (.inr hnorm)⟩
    · obtain ⟨low, hlow, hmag⟩ := ih (n := 2 * n) (by omega) (by omega)
      exact ⟨low, hlow, by rw [hmag]; ring⟩

/-- A whole number of steps that fits a significand is rounded to itself. -/
theorem magOf_roundMag_steps {s n : Nat} (hn : n < 2 ^ 24) (hs : s ≤ 253) :
    F32.magOf (roundMag (n * 2 ^ s) 1) = n * 2 ^ s := by
  obtain ⟨low, hlow, hmag⟩ := exists_magOf_eq_steps hn hs
  have hround := roundMag_magOf hlow Nat.one_pos
  rw [Nat.mul_one, hmag] at hround
  rw [hround, hmag]

end Sys2Proof

namespace Sys2Proof.Machine

section Wrap

variable {phase increment sum : F32}

/-- The sum of two values below 1.0 stays below 2.0. -/
theorem phaseSum_within (hp : F32BelowOne phase) (hi : F32BelowOne increment) :
    F32Within F32.zero belowTwo (F32.add phase increment) := by
  have htwo : belowTwo.mag = (2 ^ 24 - 1) * 2 ^ 126 := by decide
  have hpmag := hp.mag_le
  have himag := hi.mag_le
  exact add_within (.of_within hp.within one_low_lt) (.of_within hi.within one_low_lt)
    zero_nonneg.2 (by decide) (Nat.zero_le _) (by omega)

/-- 1.0 less than a value in [1.0, 2.0) is the fraction of its significand. -/
theorem mag_sub_one (h : F32Within Config.ONE belowTwo sum) :
    (F32.sub sum Config.ONE).mag = sum.mag - 2 ^ 149 := by
  obtain ⟨-, hl⟩ := sub_nonneg_spec (.of_within h (by decide)) one_nonneg h.2.1
  have hone : Config.ONE.mag = 2 ^ 149 := magOf_one
  have hbinade : sum.low / 2 ^ 23 = 126 + 1 := by
    have hfrom : 127 * 2 ^ 23 ≤ sum.low := h.2.1
    have hto : sum.low ≤ 128 * 2 ^ 23 - 1 := h.2.2
    omega
  have hmag : sum.mag = (2 ^ 23 + sum.low % 2 ^ 23) * 2 ^ 126 := magOf_succ hbinade
  have hfrac : sum.mag - 2 ^ 149 = sum.low % 2 ^ 23 * 2 ^ 126 := by omega
  rw [F32.mag, hl, hone, hfrac]
  exact magOf_roundMag_steps (by omega) (by decide)

end Wrap

/-- Settles O32: a sum that wraps is in [1.0, 2.0), where 1.0 less is exact. -/
theorem phaseAdvanceWrapsExactly : Obligations.PhaseAdvanceWrapsExactly := by
  intro phase inc hp hi
  refine ⟨advancedPhase_belowOne hp hi, fun hwrap => ?_⟩
  have hsum := phaseSum_within hp hi
  have hn : (F32.add phase inc).Nonneg := .of_within hsum (by decide)
  have hfrom : Config.ONE.low ≤ (F32.add phase inc).low := (one_nonneg.le_iff hn).1 hwrap
  have hdiff : (F32.sub (F32.add phase inc) Config.ONE).Nonneg := by
    have hbelow := advancedPhase_belowOne hp hi
    rw [advancedPhase, if_pos hwrap] at hbelow
    exact .of_within hbelow.within one_low_lt
  have hone : 2 ^ 149 ≤ (F32.add phase inc).mag := (one_le_mag_iff hn.2).2 hfrom
  rw [advancedPhase, if_pos hwrap, hdiff.val_eq, hn.val_eq,
    mag_sub_one ⟨hsum.1, hfrom, hsum.2.2⟩, Nat.cast_sub hone]
  rfl

end Sys2Proof.Machine
end

section
/-! SUPPORT. The OSC commands one by one (41_oscillator.md R151 to R158): the CMD word of each, and
what it leaves in the oscillator it names. -/

namespace Sys2Proof.Machine

/-! ### The words and the writes of OSC commands -/

section Commands

variable {n : InstNo} {s : State}

/-- The CMD pattern of the operation `op` of UNIT 2 decodes to that operation. -/
theorem decode_oscAt {x : Word} {i : Instr} (op : Nat) {imm : Nat} (hn : n.toNat < Config.NUM_OSC)
    (hop : op < 16) (himm : imm < 2 ^ 16) (h : decodeOsc op n imm ⟨x⟩ = .ok i) :
    decode ⟨cmdAt (0x20000000 + op * 0x01000000) n imm, x⟩ = .ok i :=
  decode_cmdWord (unit := 2) (by decide) hop himm hn h

theorem setOsc_eq_putOsc (hn : n.toNat < Config.NUM_OSC) (o : OscUnit) :
    setOsc s n o = putOsc s n hn o := by
  have hosc : s.osc.setIfInBounds n.toNat o = s.osc.set n.toNat o hn :=
    Vector.ext fun m hm => by rw [Vector.getElem_setIfInBounds, Vector.getElem_set]
  rw [setOsc, hosc, putOsc]

/-- A command that writes its oscillator in range changes the state by that write alone. -/
theorem withOsc_setOsc (hn : n.toNat < Config.NUM_OSC) (f : OscUnit → OscUnit) :
    withOsc n s (fun o => .next (setOsc s n (f o))) = .next (putOsc s n hn (f s.osc[n.toNat])) := by
  rw [withOsc_inRange hn, setOsc_eq_putOsc hn]

theorem putOsc_getElem_self (hn : n.toNat < Config.NUM_OSC) (o : OscUnit) :
    (putOsc s n hn o).osc[n.toNat] = o := Vector.getElem_set_self _

end Commands

/-! ### INIT and the setters -/

/-- The recompute of R150 as the statements write it out. -/
theorem recomputedBy_eq_recompute (o : OscUnit) : recomputedBy o = recompute o := rfl

theorem ofFn_eq_replicate_voices (x : F32) :
    (Vector.ofFn fun _ => x : Vector F32 Config.N_VOICES) = Vector.replicate 7 x :=
  Vector.ext fun m hm => by rw [Vector.getElem_ofFn, Vector.getElem_replicate]

/-- Settles O26: INIT is its word, and its body recomputes the eight values listed. -/
theorem oscInitWritesEveryField : Obligations.OscInitWritesEveryField := by
  intro n d s h
  refine ⟨decode_oscAt 0 h (by decide) (by decide) rfl, ?_⟩
  rw [recomputedBy_eq_recompute, ← ofFn_eq_replicate_voices]
  exact withOsc_setOsc h fun _ => oscInitBody d

theorem exec_oscSetNote {n : InstNo} (note : BitVec 7) (s : State)
    (hn : n.toNat < Config.NUM_OSC) :
    exec (.oscSetNote n note) s = .next (putOsc s n hn (oscWithNote s.osc[n.toNat] note)) :=
  withOsc_setOsc hn fun o => oscWithNote o note

/-- Settles O27: the immediate of the word is the note, and the write is its frequency, clamped. -/
theorem oscSetNoteSetsTheNoteFrequency : Obligations.OscSetNoteSetsTheNoteFrequency := by
  intro n note x s h o e hz base
  have himm : note.toNat < 2 ^ 16 := note.isLt.trans (by decide)
  exact ⟨decode_oscAt 1 h (by decide) himm (formNote7_eq_ok_iff.2 ⟨note, rfl, rfl⟩),
    exec_oscSetNote note s h⟩

/-- Settles O28: each of the two is its word and one write, recomputed. -/
theorem oscFrequencyAndDetuneRecompute : Obligations.OscFrequencyAndDetuneRecompute :=
  fun _ d _ h =>
    ⟨decode_oscAt 2 h (by decide) (by decide) rfl,
     withOsc_setOsc h fun o => oscWithFrequency o d,
     decode_oscAt 4 h (by decide) (by decide) rfl,
     withOsc_setOsc h fun o => oscWithDetune o d⟩

/-- Settles O29: SETAMP is its word and one write; the immediate of SETMODE is the code of its
mode. -/
theorem oscAmplitudeAndModeAreStored : Obligations.OscAmplitudeAndModeAreStored := by
  intro n d mode x s h
  refine ⟨decode_oscAt 3 h (by decide) (by decide) rfl,
    withOsc_setOsc h fun o => { o with amplitude := unitOperand d }, ?_,
    withOsc_setOsc h fun o => { o with mode := mode }⟩
  cases mode with
  | unison => exact decode_oscAt 6 h (by decide) (by decide) rfl
  | saw1 => exact decode_oscAt 6 h (by decide) (by decide) rfl
  | sine => exact decode_oscAt 6 h (by decide) (by decide) rfl

/-! ### PROCESS (R157 and R158) -/

section Process

variable (o : OscUnit)

/-- The voice's sample as the statements write it out. -/
theorem waveOf_eq_wave (i : Fin Config.N_VOICES) : waveOf o i = wave o i := by
  unfold waveOf wave
  cases o.mode with
  | sine => exact if_pos rfl
  | unison => exact if_neg (by decide)
  | saw1 => exact if_neg (by decide)

theorem soundingVoices_eq_ite (mode : OscMode) :
    soundingVoices mode = if mode = .unison then [0, 1, 2, 3, 4, 5, 6] else [0] := by
  cases mode <;> rfl

theorem modeNorm_eq_ite (mode : OscMode) :
    modeNorm mode = if mode = .unison then Config.NORM7 else Config.ONE := by
  cases mode <;> rfl

/-- The two channels of the stereo sum are summed apart. -/
theorem foldl_addVoice (voices : List (Fin Config.N_VOICES)) (acc : Stereo) :
    voices.foldl (addVoice o) acc =
      { l := voices.foldl (fun l i => F32.add l (channelShare (waveOf o i)
          (F32.sub Config.ONE Config.PAN[i]) (modeNorm o.mode))) acc.l
        r := voices.foldl (fun r i => F32.add r (channelShare (waveOf o i)
          (F32.add Config.ONE Config.PAN[i]) (modeNorm o.mode))) acc.r } := by
  induction voices generalizing acc with
  | nil => rfl
  | cons i voices ih => simp only [List.foldl_cons, ih, addVoice, waveOf_eq_wave]

end Process

/-- `OSC.PROCESS` on an oscillator the block has writes the advanced phases and answers the sum. -/
theorem exec_oscProcess {n : InstNo} (s : State) (hn : n.toNat < Config.NUM_OSC) :
    exec (.oscProcess n) s = .next (respondBoth (putOsc s n hn (advanceAll s.osc[n.toNat]))
      (F32.mul (stereoSum s.osc[n.toNat]).l s.osc[n.toNat].amplitude).bits
      (F32.mul (stereoSum s.osc[n.toNat]).r s.osc[n.toNat].amplitude).bits) := by
  unfold exec
  rw [← setOsc_eq_putOsc hn]
  exact withOsc_inRange hn

/-- Settles O30: PROCESS answers the stereo sum of the oscillator before the advance, channel by
channel. -/
theorem oscProcessSumsAndAdvances : Obligations.OscProcessSumsAndAdvances := by
  intro n x s h o voices norm share l r advance
  refine ⟨decode_oscAt 5 h (by decide) (by decide) rfl, ?_⟩
  rw [exec_oscProcess s h, stereoSum, foldl_addVoice, soundingVoices_eq_ite, modeNorm_eq_ite]
  rfl

end Sys2Proof.Machine
end

section
/-! SUPPORT. The accuracy of note 69 (41_oscillator.md R161): its base frequency is 440.0 at every
sample rate, and voice 0 plays the base frequency at every detune amount. -/

namespace Sys2Proof

open Sys2Proof.Machine

/-- A clamp keeps what is within its bounds. -/
theorem clamp_of_within {x lo hi : F32} (hlo : lo.Nonneg) (hhi : hi.Nonneg)
    (h : F32Within lo hi x) : F32.clamp x lo hi = x := by
  have hx : x.Nonneg := .of_within h hhi.2
  unfold F32.clamp
  split_ifs with hle hge
  · have hle' : x.low ≤ lo.low := (hx.le_iff hlo).1 (by simpa [hx.not_nan] using hle)
    exact F32.ext_low (hlo.1.trans h.1.symm) (le_antisymm h.2.1 hle')
  · exact F32.ext_low (hhi.1.trans h.1.symm) (le_antisymm ((hhi.le_iff hx).1 hge) h.2.2)
  · rfl

/-! ### Zero and one in products and quotients -/

theorem roundMag_zero {den : Nat} (hd : 0 < den) : roundMag 0 den = 0 := by
  simpa [magOf_zero] using roundMag_magOf (low := 0) (by decide) hd

theorem mag_zero : F32.zero.mag = 0 := magOf_zero

section Nonneg

variable {x : F32}

theorem zero_mul_of_nonneg (hx : x.Nonneg) : F32.mul F32.zero x = F32.zero := by
  obtain ⟨hs, hl⟩ := mul_nonneg_spec zero_nonneg hx
  rw [mag_zero, Nat.zero_mul, roundMag_zero (by positivity)] at hl
  exact F32.ext_low hs hl

theorem zero_div_of_nonneg (hx : x.Nonneg) (h0 : 0 < x.low) : F32.div F32.zero x = F32.zero := by
  obtain ⟨hs, hl⟩ := div_nonneg_spec zero_nonneg hx h0
  rw [mag_zero, Nat.zero_mul, roundMag_zero (hx.mag_pos h0)] at hl
  exact F32.ext_low hs hl

theorem mul_one_of_nonneg (hx : x.Nonneg) : F32.mul x Config.ONE = x := by
  have hone : Config.ONE.mag = 2 ^ 149 := magOf_one
  obtain ⟨hs, hl⟩ := mul_nonneg_spec hx one_nonneg
  rw [hone, F32.mag, roundMag_magOf hx.2 (by positivity)] at hl
  exact F32.ext_low (hs.trans hx.1.symm) hl

end Nonneg

theorem ofInt_zero : F32.ofInt 0 = F32.zero :=
  F32.ext_low (sign_roundSigned _ _ _) ((low_roundSigned _ _ _).trans (roundMag_zero Nat.one_pos))

/-- The exponent +0.0 is among the whole exponents of R9. -/
theorem EXP2_zero : EXP2 F32.zero = Config.ONE := by
  rw [← ofInt_zero]
  exact exp2OfSmallIntegersIsExact 10

end Sys2Proof

namespace Sys2Proof.Machine

section NoteSixtyNine

variable {o : OscUnit}

theorem a4_nonneg : Config.A4_HZ.Nonneg := ⟨by decide, by decide⟩

theorem noteHz_sixtyNine : noteHz 69 = Config.A4_HZ := by
  have hsteps : ((69 : BitVec 7).toNat : Int) - 69 = 0 := rfl
  rw [noteHz, hsteps, ofInt_zero, zero_div_of_nonneg ⟨by decide, by decide⟩ (by decide), EXP2_zero,
    mul_one_of_nonneg a4_nonneg]

/-- 440.0 is in the range of the clamp at every sample rate, so note 69 sets it. -/
theorem oscWithNote_sixtyNine (ho : o.Legal) :
    oscWithNote o 69 = recompute { o with baseFrequency := Config.A4_HZ } := by
  have hclamp : frequencyOperand Config.A4_HZ o.sampleRate = Config.A4_HZ :=
    clamp_of_within zero_nonneg (halfRate_nonneg ho.sampleRate) (a4_within_halfRate ho.sampleRate)
  rw [oscWithNote, noteHz_sixtyNine, hclamp]

/-- Voice 0 is tuned by no cents, so it plays the base frequency at every detune amount. -/
theorem voiceFrequency_zero (hb : o.baseFrequency.Nonneg) (hd : o.detuneAmount.Nonneg) :
    voiceFrequency o 0 = o.baseFrequency := by
  have hcents : Config.CENTS[(0 : Fin Config.N_VOICES)] = F32.zero := rfl
  rw [voiceFrequency, hcents, zero_mul_of_nonneg hd,
    zero_div_of_nonneg ⟨by decide, by decide⟩ (by decide), EXP2_zero, mul_one_of_nonneg hb]

theorem phaseIncrement_recompute_zero (hb : o.baseFrequency.Nonneg) (hd : o.detuneAmount.Nonneg) :
    (recompute o).phaseIncrement[0] = F32.div o.baseFrequency o.sampleRate := by
  have hvoice : (recompute o).phaseIncrement[0] = F32.div (voiceFrequency o 0) o.sampleRate :=
    Vector.getElem_ofFn _
  rw [hvoice, voiceFrequency_zero hb hd]

end NoteSixtyNine

/-- Settles O31: note 69 and voice 0 both have the exponent +0.0, and 2^0 is exact. -/
theorem noteSixtyNineIncrementIsExact : Obligations.NoteSixtyNineIncrementIsExact := by
  intro n s hn hs
  refine ⟨_, exec_oscSetNote 69 s hn, ?_⟩
  have ho : s.osc[n.toNat].Legal := hs.osc ⟨n.toNat, hn⟩
  rw [putOsc_getElem_self hn, oscWithNote_sixtyNine ho]
  exact phaseIncrement_recompute_zero a4_nonneg (.of_within ho.detuneAmount one_low_lt)

end Sys2Proof.Machine
end

section
/-! SUPPORT. The FLT commands one by one (42_filter.md R201 to R208): the CMD word of each, and what
it leaves in the filter it names. -/

namespace Sys2Proof.Machine

/-! ### The words and the writes of FLT commands -/

section Commands

variable {n : InstNo} {s : State}

/-- The CMD pattern of the operation `op` of UNIT 3 decodes to that operation. -/
theorem decode_fltAt {x : Word} {i : Instr} (op : Nat) {imm : Nat} (hn : n.toNat < Config.NUM_FLT)
    (hop : op < 16) (himm : imm < 2 ^ 16) (h : decodeFlt op n imm ⟨x⟩ = .ok i) :
    decode ⟨cmdAt (0x30000000 + op * 0x01000000) n imm, x⟩ = .ok i :=
  decode_cmdWord (unit := 3) (by decide) hop himm hn h

theorem setFlt_eq_putFlt (hn : n.toNat < Config.NUM_FLT) (f : FltUnit) :
    setFlt s n f = putFlt s n hn f := by
  have hflt : s.flt.setIfInBounds n.toNat f = s.flt.set n.toNat f hn :=
    Vector.ext fun m hm => by rw [Vector.getElem_setIfInBounds, Vector.getElem_set]
  rw [setFlt, hflt, putFlt]

/-- A command that writes its filter in range changes the state by that write alone. -/
theorem withFlt_setFlt (hn : n.toNat < Config.NUM_FLT) (f : FltUnit → FltUnit) :
    withFlt n s (fun u => .next (setFlt s n (f u))) = .next (putFlt s n hn (f s.flt[n.toNat])) := by
  rw [withFlt_inRange hn, setFlt_eq_putFlt hn]

/-- A read-back in range changes RESP0 alone. -/
theorem withFlt_respond0 (hn : n.toNat < Config.NUM_FLT) (f : FltUnit → Word) :
    withFlt n s (fun u => .next (respond0 s (f u))) = .next { s with resp0 := f s.flt[n.toNat] } :=
  withFlt_inRange hn

/-- `FLT.PROCESS` with the coefficients its lookup finds is one filter step and its answer. -/
theorem exec_fltProcess {c : Entry} (x : F32) (hn : n.toNat < Config.NUM_FLT)
    (hc : lookup s.tab s.flt[n.toNat] = some c) :
    exec (.fltProcess n x) s = .next (respond0 (putFlt s n hn (svfStep s.flt[n.toNat] x c))
      (svfOutput s.flt[n.toNat] x c).bits) := by
  show execFltProcess n x s = _
  rw [execFltProcess, withFlt_inRange hn, hc, ← setFlt_eq_putFlt hn]

end Commands

/-! ### INIT, the setters and the read-backs -/

/-- Settles O33: INIT is its word, and writes the table and its own filter. -/
theorem fltInitRebuildsTheTable : Obligations.FltInitRebuildsTheTable := by
  intro n d s h cleared
  refine ⟨decode_fltAt 0 h (by decide) (by decide) rfl, ?_⟩
  show execFltInit n d s = _
  rw [execFltInit, withFlt_inRange h, setFlt_eq_putFlt h]
  rfl

/-- Settles O36: each of the four is its word and one write of one field; the immediate of
SETLOOKUP is the code of its policy. -/
theorem fltSettersStoreTheirField : Obligations.FltSettersStoreTheirField := by
  intro n d mode x s h
  refine ⟨decode_fltAt 1 h (by decide) (by decide) rfl,
    withFlt_setFlt h fun f => { f with cutoffPosition := unitOperand d },
    decode_fltAt 2 h (by decide) (by decide) rfl,
    withFlt_setFlt h fun f => { f with cutoffAddition := d },
    decode_fltAt 3 h (by decide) (by decide) rfl,
    withFlt_setFlt h fun f => { f with resonancePosition := unitOperand d }, ?_,
    withFlt_setFlt h fun f => { f with interp := mode }⟩
  cases mode with
  | nearest => exact decode_fltAt 7 h (by decide) (by decide) rfl
  | bilinear => exact decode_fltAt 7 h (by decide) (by decide) rfl

/-- The top frequency of R5 as the statements write it out. -/
theorem maxFreqAt_eq_fltMaxFreq (sr : F32) : maxFreqAt sr = fltMaxFreq sr := rfl

/-- Settles O37: each read-back is its word and the one write of RESP0. -/
theorem fltReadbacksAnswerHzAndQ : Obligations.FltReadbacksAnswerHzAndQ := by
  intro n x s h f
  rw [maxFreqAt_eq_fltMaxFreq]
  exact ⟨decode_fltAt 4 h (by decide) (by decide) rfl,
    withFlt_respond0 h fun f => (cutoffHz s.tab.sr f.cutoffPosition).bits,
    decode_fltAt 5 h (by decide) (by decide) rfl,
    withFlt_respond0 h fun f => (resonanceQ f.resonancePosition).bits⟩

/-! ### The coefficient table (R190, R193) -/

/-- Settles O34: an entry of the built table is the design at its two steps. -/
theorem builtTableHoldsTheDesign : Obligations.BuiltTableHoldsTheDesign := by
  intro sr j i f q
  exact ⟨buildTable_sr sr, buildTable_entry sr j i j.isLt i.isLt⟩

/-- A command keeps the table, or is one of the two that build it. -/
theorem Effect.tab {i : Instr} {s t : State} (h : Effect s i t) :
    t.tab = s.tab ∨ (∃ n d, i = .fltInit n d ∧ t.tab = buildTable (rateOperand d)) ∨
      (i = .sysReset ∧ t.tab = buildTable Config.SR_RESET) := by
  cases h with
  | fltInit d => exact .inr (.inl ⟨_, d, rfl, rfl⟩)
  | reset => exact .inr (.inr ⟨rfl, rfl⟩)
  | _ => exact .inl rfl

/-- Settles O35: of all effects only INIT's and reset's build a table. -/
theorem tableChangesOnlyWhereBuilt : Obligations.TableChangesOnlyWhereBuilt := fun _ _ _ h =>
  (exec_effect h).tab

/-! ### The lookup (R194 to R196) -/

/-- Settles O39: both policies read the grid at the two indices given. -/
theorem lookupReadsTheGrid : Obligations.LookupReadsTheGrid := by
  intro t f gi gj hi hj line plane
  rw [lookup_eq_some hi hj]
  cases f.interp with
  | nearest => rfl
  | bilinear => rfl

/-! ### The filter step (R197, R198) -/

/-- Settles O40: a legal resonance position finds coefficients, and PROCESS runs them. -/
theorem fltProcessRunsTheFilterStep : Obligations.FltProcessRunsTheFilterStep := by
  intro n x s h hr
  obtain ⟨c, hc⟩ := exists_lookup hr s.tab
  exact ⟨decode_fltAt 6 h (by decide) (by decide) rfl, c, hc, exec_fltProcess x h hc⟩

/-- Settles O43: the band-pass value is a TANH. -/
theorem bandPassIsSaturated : Obligations.BandPassIsSaturated := by
  intro f x c hn
  obtain ⟨-, hbound, -⟩ := tanhIsOddAndTanhAndSinAreBounded (F32.add (svfV1 f x c) f.s1)
  exact (hbound hn).2

end Sys2Proof.Machine
end

section
/-! SUPPORT. The weight of a grid index (42_filter.md R195): a binary32 position from 1.0 on is a
multiple of 2^-23, so that its fraction stays clear of 1.0 and does not round up to it. -/

namespace Sys2Proof

open Sys2Proof.Machine

/-- The fraction of a finite value is at most the greatest value below 1.0. -/
theorem magOf_mod_one_le {low : Nat} (h : low < F32.infLow) :
    F32.magOf low % 2 ^ 149 ≤ F32.magOf (Config.ONE.low - 1) := by
  rw [magOf_pred_one]
  obtain ⟨m, hm⟩ | ⟨-, hlt⟩ := magOf_dvd_or_lt low 126
  · omega
  · have hone : ¬ Config.ONE.low ≤ low := fun hle => by
      have hmag := (magOf_le_magOf one_low_lt h).2 hle
      rw [magOf_one] at hmag
      omega
    have hle := (magOf_le_magOf h (by decide)).2 (Nat.le_pred_of_lt (not_le.1 hone))
    rw [Nat.pred_eq_sub_one, magOf_pred_one] at hle
    exact (Nat.mod_le _ _).trans hle

/-- A whole number that fits a significand is converted exactly. -/
theorem ofInt_natCast {k : Nat} (hk : k < 2 ^ 24) :
    (F32.ofInt k).Nonneg ∧ (F32.ofInt k).mag = k * 2 ^ 149 := by
  have hsign : decide ((k : Int) < 0) = false := decide_eq_false (by omega)
  have hlow : (F32.ofInt k).low = roundMag (k * 2 ^ 149) 1 := low_roundSigned _ _ _
  obtain ⟨low, hfin, hmag⟩ := exists_magOf_eq_steps hk (s := 149) (by decide)
  have hround : roundMag (k * 2 ^ 149) 1 = low := by
    simpa [hmag] using roundMag_magOf hfin Nat.one_pos
  rw [hround] at hlow
  exact ⟨⟨(sign_roundSigned _ _ _).trans hsign, hlow ▸ hfin⟩, by rw [F32.mag, hlow, hmag]⟩

/-- What is left of a nonnegative value less its floor is below 1.0. -/
theorem sub_floor_belowOne {u : F32} (hu : u.Nonneg) (hk : u.mag / 2 ^ 149 < 2 ^ 24) :
    F32BelowOne (F32.sub u (F32.ofInt (u.mag / 2 ^ 149 : Nat))) := by
  obtain ⟨hn, hmag⟩ := ofInt_natCast hk
  have hle : (F32.ofInt (u.mag / 2 ^ 149 : Nat)).low ≤ u.low := by
    rw [← hn.mag_le_iff hu, hmag]
    exact Nat.div_mul_le_self _ _
  obtain ⟨hs, hl⟩ := sub_nonneg_spec hu hn hle
  have hfrac : u.mag - u.mag / 2 ^ 149 * 2 ^ 149 = u.mag % 2 ^ 149 := by omega
  rw [hmag, hfrac] at hl
  have hround : roundMag (u.mag % 2 ^ 149) 1 ≤ Config.ONE.low - 1 :=
    roundMag_le_of_le Nat.one_pos (by decide) (by
      rw [Nat.mul_one]
      exact magOf_mod_one_le hu.2)
  exact ⟨hs, hl.trans_lt (Nat.lt_of_le_pred (by decide) hround)⟩

end Sys2Proof

namespace Sys2Proof.Machine

/-- Settles O38: the floor of a position is a step of its axis, and the weight the fraction left. -/
theorem legalPositionsIndexInsideTheGrid : Obligations.LegalPositionsIndexInsideTheGrid := by
  intro x steps hx hs
  have hu : (gridPosition x steps).Nonneg :=
    .of_within (gridPosition_within hx hs) (ofInt_lastStep hs).1.2
  have hsteps : steps < 2 ^ 24 := by
    obtain rfl | rfl := hs <;> decide
  exact ⟨_, gridIndex_of_within hx hs, rfl, rfl, rfl,
    sub_floor_belowOne hu ((gridFloor_lt hx hs).trans hsteps)⟩

end Sys2Proof.Machine
end

section
/-! SUPPORT. Interpolation between equal ends (42_filter.md R196): the difference is an exact +0.0,
its product with the weight a zero of the weight's sign, and a zero added to a finite value changes
at most the sign of a zero. -/

namespace Sys2Proof

section Finite

variable {x y : F32}

theorem val_neg (x : F32) : x.neg.val = -x.val := by
  rw [F32.val, F32.val, sign_neg, F32.mag, low_neg, ← F32.mag]
  cases x.sign <;> simp

theorem add_of_finite (hx : x.low < F32.infLow) (hy : y.low < F32.infLow) :
    F32.add x y = F32.addFinite x y := by
  simp [F32.add, isNaN_eq_false hx.le, isNaN_eq_false hy.le, isInf_eq_false hx, isInf_eq_false hy]

theorem addFinite_of_val_eq_zero (h : x.val + y.val = 0) :
    F32.addFinite x y = F32.ofLow (x.sign && y.sign) 0 := by
  rw [F32.addFinite, h]

/-- A sum whose exact value is not zero is that value, rounded once. -/
theorem addFinite_of_val_ne_zero (h : x.val + y.val ≠ 0) : F32.addFinite x y =
    roundSigned (decide (x.val + y.val < 0)) (x.val + y.val).natAbs 1 := by
  unfold F32.addFinite
  split
  · next h0 => exact absurd h0 h
  · next k hk => rw [hk]; rfl
  · next k hk => rw [hk, decide_eq_true (Int.negSucc_lt_zero k)]; rfl

theorem sub_self_of_finite (hx : x.low < F32.infLow) : F32.sub x x = F32.zero := by
  have hval : x.val + x.neg.val = 0 := by rw [val_neg, Int.add_right_neg]
  rw [F32.sub, add_of_finite hx (by rwa [low_neg]), addFinite_of_val_eq_zero hval, sign_neg,
    Bool.and_not_self]
  rfl

theorem mul_zero_of_finite (hx : x.low < F32.infLow) : F32.mul x F32.zero = F32.ofLow x.sign 0 := by
  have hmul : F32.mul x F32.zero =
      roundSigned (x.sign != F32.zero.sign) (x.mag * F32.zero.mag) (2 ^ 149) := by
    simp [F32.mul, isNaN_eq_false hx.le, isInf_eq_false hx, zero_nonneg.not_nan,
      zero_nonneg.not_inf]
  rw [hmul, roundSigned, zero_nonneg.1, Bool.bne_false, mag_zero, Nat.mul_zero,
    roundMag_zero (by positivity)]

theorem val_eq_zero_iff (hx : x.low < F32.infLow) : x.val = 0 ↔ x.low = 0 := by
  have hmag : x.mag = 0 ↔ x.low = 0 :=
    ⟨fun h => magOf_inj hx (by decide) (h.trans magOf_zero.symm),
     fun h => (congrArg F32.magOf h).trans magOf_zero⟩
  rw [← hmag, F32.val]
  cases x.sign <;> simp

/-- A finite value other than zero is its exact value rounded. -/
theorem roundSigned_val (hx : x.low < F32.infLow) (h0 : x.val ≠ 0) :
    roundSigned (decide (x.val < 0)) x.val.natAbs 1 = x := by
  have habs : x.val.natAbs = x.mag := by
    unfold F32.val
    cases x.sign <;> simp
  have hsign : decide (x.val < 0) = x.sign := by
    unfold F32.val at h0 ⊢
    cases x.sign with
    | false => simp
    | true => simpa using Nat.pos_of_ne_zero fun h => h0 (by simp [h])
  refine F32.ext_low ((sign_roundSigned _ _ _).trans hsign) ?_
  rw [low_roundSigned, habs, ← Nat.mul_one x.mag]
  exact roundMag_magOf hx Nat.one_pos

/-- The sum of two zeros is +0.0 unless both are -0.0. -/
theorem add_of_zeros (hx : x.low = 0) (hy : y.low = 0) :
    F32.add x y = F32.ofLow (x.sign && y.sign) 0 := by
  have hxfin : x.low < F32.infLow := hx.trans_lt (by decide)
  have hyfin : y.low < F32.infLow := hy.trans_lt (by decide)
  rw [add_of_finite hxfin hyfin, addFinite_of_val_eq_zero]
  rw [(val_eq_zero_iff hxfin).2 hx, (val_eq_zero_iff hyfin).2 hy, Int.add_zero]

/-- A zero added to a finite value other than zero leaves it as it is. -/
theorem add_zero_of_low_ne_zero (hx : x.low < F32.infLow) (h0 : x.low ≠ 0) (hy : y.low = 0) :
    F32.add x y = x := by
  have hyfin : y.low < F32.infLow := hy.trans_lt (by decide)
  have hval : x.val + y.val = x.val := by rw [(val_eq_zero_iff hyfin).2 hy, Int.add_zero]
  have hne : x.val ≠ 0 := (val_eq_zero_iff hx).not.2 h0
  rw [add_of_finite hx hyfin, addFinite_of_val_ne_zero (by rwa [hval]), hval,
    roundSigned_val hx hne]

end Finite

end Sys2Proof

namespace Sys2Proof.Machine

/-- Settles O44: what is added to the end is a zero of the weight's sign, which an end other than
zero absorbs; of the two ends that are zero only -0.0 can change. -/
theorem lerpOfEqualEndsIsTheEnd : Obligations.LerpOfEqualEndsIsTheEnd := by
  intro u w hu hw
  have hfin := low_lt_of_isFinite hu
  have hlow : (F32.ofLow w.sign 0).low = 0 := low_ofLow _ (by decide)
  have hlerp : lerp u u w = F32.add u (F32.ofLow w.sign 0) := by
    rw [lerp, sub_self_of_finite hfin, mul_zero_of_finite (low_lt_of_isFinite hw)]
  by_cases h0 : u.low = 0
  · have hend : F32.ofLow u.sign 0 = u := by rw [← h0, ofLow_sign_low]
    rw [hlerp, add_of_zeros h0 hlow, sign_ofLow _ (by decide)]
    cases hs : u.sign with
    | false =>
      rw [hs] at hend
      exact .inl hend
    | true =>
      rw [hs] at hend
      cases w.sign with
      | false => exact .inr ⟨hend.symm, rfl⟩
      | true => exact .inl hend
  · exact .inl (hlerp.trans (add_zero_of_low_ne_zero hfin h0 hlow))

end Sys2Proof.Machine
end

section
/-! SUPPORT. The SYS commands one by one (43_system.md R240 to R243): the CMD word of each, and what
it leaves of the state. -/

namespace Sys2Proof.Machine

/-- The CMD pattern of the operation `op` of UNIT 0 decodes to that operation, with any DATA. -/
theorem decode_sysAt {x : Word} {i : Instr} (op : Nat) (hop : op < 16)
    (h : decodeSys op 0 = .ok i) : decode ⟨BitVec.ofNat 32 (op * 0x01000000), x⟩ = .ok i := by
  have hword : BitVec.ofNat 32 (op * 0x01000000) = cmdWord 0 op 0 0 := by
    simp [cmdWord]
  rw [hword]
  exact decode_cmdWord (by decide) hop (by decide) (by decide) h

section Commands

variable (s : State)

@[simp] theorem exec_sysNop : exec .sysNop s = .next s := rfl

@[simp] theorem exec_sysRdStatus : exec .sysRdStatus s = .next { s with resp0 := s.status } := rfl

@[simp] theorem exec_sysClrStatus :
    exec .sysClrStatus s = .next { s with status := 0x00000000#32 } := rfl

@[simp] theorem exec_sysReset : exec .sysReset s = .next (resetBlock s) := rfl

end Commands

/-- Settles O11: each of the three is its word and at most one write of one field. -/
theorem systemCommandsComplete : Obligations.SystemCommandsComplete := fun s _ =>
  ⟨decode_sysAt 0 (by decide) rfl, exec_sysNop s, decode_sysAt 1 (by decide) rfl,
    exec_sysRdStatus s, decode_sysAt 2 (by decide) rfl, exec_sysClrStatus s⟩

/-- Settles O12: RESET is its word and leaves the reset block, whose every field but the port is
that of the reset state. -/
theorem systemResetRestoresTheResetState : Obligations.SystemResetRestoresTheResetState :=
  fun s _ => ⟨decode_sysAt 3 (by decide) rfl, resetBlock s, exec_sysReset s, resetBlock_env s,
    resetBlock_osc s, resetBlock_flt s, resetBlock_tab s,
    (resetBlock_status s).trans reset_status, (resetBlock_resp0 s).trans reset_resp0,
    (resetBlock_resp1 s).trans reset_resp1⟩

end Sys2Proof.Machine
end

section
/-! SUPPORT. No step stops the block (60_exceptions.md R260, R272 and R274): an empty port leaves it
idle, and a legal state completes whatever record comes first. -/

namespace Sys2Proof.Machine

/-- Settles O3: an empty port gives no command to take. -/
theorem idleBlockKeepsAllState : Obligations.IdleBlockKeepsAllState := by
  intro s hport
  rw [step, takeCommand_nil hport]

/-- Settles O46: an idle step answers the state and an illegal record its `ILLEGAL` bit; a legal
record runs a command, which completes because the state without the record is legal too. -/
theorem legalBlockNeverStops : Obligations.LegalBlockNeverStops := by
  intro s hs
  obtain ⟨-, hidle⟩ | ⟨c, rest, -, ⟨i, -, hexec⟩ | ⟨e, -, hill⟩⟩ := step_cases s
  · exact ⟨s, hidle⟩
  · obtain ⟨t, ht, -⟩ := exec_completes (inv_port hs rest) i
    exact ⟨t, hexec.trans ht⟩
  · exact ⟨_, hill⟩

end Sys2Proof.Machine
end

section
/-! SUPPORT. NaN in the filter (70_reset_and_hazards.md R287): every operation of `svf_step` passes
a NaN on, and of the FLT commands only INIT writes a state that is not a step's result. -/

namespace Sys2Proof

section PassOn

variable {x y : F32}

theorem isNaN_add (h : x.isNaN = true ∨ y.isNaN = true) : (F32.add x y).isNaN = true :=
  (congrArg F32.isNaN (add_of_isNaN h)).trans isNaN_qNaN

theorem isNaN_sub (h : x.isNaN = true ∨ y.isNaN = true) : (F32.sub x y).isNaN = true :=
  (congrArg F32.isNaN (sub_of_isNaN h)).trans isNaN_qNaN

theorem isNaN_mul (h : x.isNaN = true ∨ y.isNaN = true) : (F32.mul x y).isNaN = true :=
  (congrArg F32.isNaN (mul_of_isNaN h)).trans isNaN_qNaN

theorem isNaN_TANH (h : x.isNaN = true) : (TANH x).isNaN = true := by
  rw [TANH, if_pos h]
  exact isNaN_qNaN

end PassOn

end Sys2Proof

namespace Sys2Proof.Machine

/-! ### The values of one filter step (R197) -/

section Step

variable {f : FltUnit} {x : F32} (c : Entry)

/-- The low-pass value carries a NaN of `s2` into the new `s2`, whatever the sample. -/
theorem isNaN_svfStep_s2_of_s2 (h : f.s2.isNaN = true) : (svfStep f x c).s2.isNaN = true :=
  isNaN_add (.inr (isNaN_add (.inr h)))

variable (h : x.isNaN = true ∨ f.s1.isNaN = true)
include h

theorem isNaN_svfHighPass : (svfHighPass f x c).isNaN = true :=
  isNaN_mul (.inl (isNaN_sub (.inl (isNaN_sub (h.imp_right fun h1 => isNaN_mul (.inr h1))))))

theorem isNaN_svfV1 : (svfV1 f x c).isNaN = true := isNaN_mul (.inr (isNaN_svfHighPass c h))

theorem isNaN_svfBandPass : (svfBandPass f x c).isNaN = true :=
  isNaN_TANH (isNaN_add (.inl (isNaN_svfV1 c h)))

theorem isNaN_svfV2 : (svfV2 f x c).isNaN = true := isNaN_mul (.inr (isNaN_svfBandPass c h))

theorem isNaN_svfLowPass : (svfLowPass f x c).isNaN = true := isNaN_add (.inl (isNaN_svfV2 c h))

theorem isNaN_svfStep_s1 : (svfStep f x c).s1.isNaN = true := isNaN_add (.inl (isNaN_svfV1 c h))

theorem isNaN_svfStep_s2 : (svfStep f x c).s2.isNaN = true := isNaN_add (.inl (isNaN_svfV2 c h))

theorem isNaN_svfOutput : (svfOutput f x c).isNaN = true :=
  isNaN_mul (.inl (isNaN_svfLowPass c h))

end Step

/-! ### What a command leaves in the filter it names -/

section Commands

variable {n : InstNo} {i : Instr} {s t : State}

theorem eq_of_withFlt {k : FltUnit → State} (hn : n.toNat < Config.NUM_FLT)
    (h : withFlt n s (fun f => .next (k f)) = .next t) : t = k s.flt[n.toNat] := by
  rw [withFlt_inRange hn] at h
  cases h
  rfl

theorem setFlt_getElem_self (hn : n.toNat < Config.NUM_FLT) (f : FltUnit) :
    (setFlt s n f).flt[n.toNat] = f :=
  (setFlt_getElem s n f n.toNat hn).trans (if_pos rfl)

theorem putFlt_getElem_self (hn : n.toNat < Config.NUM_FLT) (f : FltUnit) :
    (putFlt s n hn f).flt[n.toNat] = f := Vector.getElem_set_self _

theorem exec_fltProcess_getElem {x : F32} (hn : n.toNat < Config.NUM_FLT)
    (h : exec (.fltProcess n x) s = .next t) :
    ∃ c, t.flt[n.toNat] = svfStep s.flt[n.toNat] x c := by
  cases hc : lookup s.tab s.flt[n.toNat] with
  | none =>
    rw [exec, execFltProcess, withFlt_inRange hn, hc] at h
    cases h
  | some c =>
    rw [exec_fltProcess x hn hc] at h
    cases h
    exact ⟨c, putFlt_getElem_self hn _⟩

/-- An FLT command other than INIT keeps both filter states or is one filter step. -/
theorem exec_flt_states (h : exec i s = .next t) (ht : target i = .flt n)
    (hn : n.toNat < Config.NUM_FLT) (hinit : ∀ d, i ≠ .fltInit n d) :
    (t.flt[n.toNat].s1 = s.flt[n.toNat].s1 ∧ t.flt[n.toNat].s2 = s.flt[n.toNat].s2) ∨
      ∃ x c, t.flt[n.toNat] = svfStep s.flt[n.toNat] x c := by
  unfold exec at h
  cases i with
  | fltInit _ d =>
    cases ht
    exact absurd rfl (hinit d)
  | fltProcess _ x =>
    cases ht
    exact .inr ⟨x, exec_fltProcess_getElem hn h⟩
  | fltGetFreq | fltGetQ =>
    cases ht
    rw [eq_of_withFlt hn h]
    exact .inl ⟨rfl, rfl⟩
  | fltSetFreq | fltAddFreq | fltSetQ | fltSetLookup =>
    cases ht
    rw [eq_of_withFlt hn h, setFlt_getElem_self hn]
    exact .inl ⟨rfl, rfl⟩
  | _ => cases ht

end Commands

/-- Settles O42: the NaN runs through the values of the step in R197's order; and of the commands
that reach a filter, all but INIT and reset keep its states or run one step, which passes the NaN of
either state on. -/
theorem nanPoisonsTheFilter : Obligations.NanPoisonsTheFilter := by
  constructor
  · intro n x s hn hr hnan
    obtain ⟨c, hc⟩ := exists_lookup hr s.tab
    refine ⟨_, exec_fltProcess x hn hc, ?_⟩
    rw [respond0_flt, putFlt_getElem_self hn]
    exact ⟨isNaN_svfStep_s1 c hnan, isNaN_svfStep_s2 c hnan, isNaN_svfOutput c hnan⟩
  · intro i s t m h hreset hinit
    by_cases hm : ∃ n, target i = .flt n ∧ n.toNat = m
    · obtain ⟨n, ht, hnm⟩ := hm
      obtain ⟨m, hn⟩ := m
      obtain rfl : n.toNat = m := hnm
      simp only [Fin.getElem_fin]
      obtain ⟨hs1, hs2⟩ | ⟨x, c, hstep⟩ :=
        exec_flt_states h ht hn fun d hi => hinit n d hi rfl
      · rw [hs1, hs2]
        exact ⟨id, id⟩
      · rw [hstep]
        exact ⟨fun h1 => isNaN_svfStep_s1 c (.inr h1), isNaN_svfStep_s2_of_s2 c⟩
    · rw [(exec_effect h).flt_of_ne hreset m fun n ht hnm => hm ⟨n, ht, hnm⟩]
      exact ⟨id, id⟩

end Sys2Proof.Machine
end

section
/-! SUPPORT. The values of the reset table (70_reset_and_hazards.md R280): the INIT bodies at
`SR_RESET`, whose rate is in range and whose oscillator is not detuned. -/

namespace Sys2Proof

open Sys2Proof.Machine

theorem rateOperand_reset : rateOperand Config.SR_RESET = Config.SR_RESET :=
  clamp_of_within ⟨by decide, by decide⟩ ⟨by decide, by decide⟩ ⟨by decide, by decide, by decide⟩

section Zeros

variable {x y : F32}

theorem low_mul_of_low_eq_zero (hx : x.low < F32.infLow) (hy : y.low = 0) : (F32.mul x y).low = 0 := by
  have hmag : y.mag = 0 := (congrArg F32.magOf hy).trans magOf_zero
  rw [low_mul_of_finite hx (hy.trans_lt (by decide)), hmag, Nat.mul_zero,
    roundMag_zero (by positivity)]

theorem low_div_of_low_eq_zero (hx : x.low = 0) (hy : y.Nonneg) (h0 : 0 < y.low) :
    (F32.div x y).low = 0 := by
  have hmag : x.mag = 0 := (congrArg F32.magOf hx).trans magOf_zero
  rw [low_div_of_finite (hx.trans_lt (by decide)) hy.2 h0, hmag, Nat.zero_mul,
    roundMag_zero (hy.mag_pos h0)]

/-- EXP2 reads the value of its argument, and both zeros have one value. -/
theorem EXP2_of_low_eq_zero (hx : x.low = 0) : EXP2 x = Config.ONE := by
  have hfin : x.low < F32.infLow := hx.trans_lt (by decide)
  have hval : x.val = F32.zero.val := (val_eq_zero_iff hfin).2 hx
  have hxf : x.isFinite = true := decide_eq_true hfin
  rw [← EXP2_zero, EXP2, EXP2, hval, hxf, zero_nonneg.finite, if_pos rfl, if_pos rfl]

end Zeros

end Sys2Proof

namespace Sys2Proof.Machine

/-- With no detune every voice plays the base frequency: its offset in cents comes to a zero. -/
theorem voiceFrequency_of_undetuned {o : OscUnit} (hb : o.baseFrequency.Nonneg)
    (hd : o.detuneAmount.low = 0) (i : Fin Config.N_VOICES) :
    voiceFrequency o i = o.baseFrequency := by
  have hcents : Config.CENTS[i].low < F32.infLow := (cents_low_le i).trans_lt (by decide)
  rw [voiceFrequency, EXP2_of_low_eq_zero, mul_one_of_nonneg hb]
  exact low_div_of_low_eq_zero (low_mul_of_low_eq_zero hcents hd) ⟨by decide, by decide⟩
    (by decide)

/-- An oscillator with no detune has one frequency and one phase increment in every voice. -/
theorem recompute_of_undetuned {o : OscUnit} (hb : o.baseFrequency.Nonneg)
    (hd : o.detuneAmount.low = 0) :
    recompute o = { o with
      frequency := Vector.replicate 7 o.baseFrequency
      phaseIncrement := Vector.replicate 7 (F32.div o.baseFrequency o.sampleRate) } := by
  simp only [recompute, voiceFrequency_of_undetuned hb hd, ofFn_eq_replicate_voices]

theorem reset_sampleIncrement : F32.div Config.ONE Config.SR_RESET = ⟨0x37AEC33E#32⟩ := by
  decide +kernel

theorem reset_phaseIncrement : F32.div Config.A4_HZ Config.SR_RESET = ⟨0x3C162FC9#32⟩ := by
  decide +kernel

/-- Settles O9: the INIT bodies at `SR_RESET`, with the two quotients by it evaluated. -/
theorem resetHoldsTheStatedValues : Obligations.ResetHoldsTheStatedValues := by
  refine ⟨fun n => ?_, fun n => ?_, fun n => reset_flt n n.isLt, reset_tab, rfl, reset_status,
    reset_resp0, reset_resp1, fun s => ⟨s.port, exec_sysReset s⟩⟩
  · rw [Fin.getElem_fin, reset_env, envInitBody, rateOperand_reset, reset_sampleIncrement]
    rfl
  · rw [Fin.getElem_fin, reset_osc, oscInitBody, recompute_of_undetuned a4_nonneg rfl,
      rateOperand_reset, reset_phaseIncrement, ofFn_eq_replicate_voices]
    rfl

/-- Settles O10: every INIT body is legal, and `SR_RESET` is a legal rate of the table. -/
theorem resetMeetsTheInvariant : Obligations.ResetMeetsTheInvariant := inv_reset

end Sys2Proof.Machine
end

section
/-! SUPPORT. The lookup of a NaN resonance position (42_filter.md R195): `floor_int` is undefined on
a NaN (00_scope.md R11), so the position has no grid index and the filter no coefficients. -/

namespace Sys2Proof

theorem floorInt_of_isNaN {x : F32} (h : x.isNaN = true) : x.floorInt = none := by
  have hfin : x.isFinite = false := decide_eq_false (of_decide_eq_true h).asymm
  rw [F32.floorInt, hfin, Bool.false_and, if_neg Bool.false_ne_true]

end Sys2Proof

namespace Sys2Proof.Machine

theorem gridIndex_of_isNaN {x : F32} (h : x.isNaN = true) (steps : Nat) :
    gridIndex x steps = none := by
  have hpos : (gridPosition x steps).isNaN = true := isNaN_mul (.inl h)
  rw [gridIndex, floorInt_of_isNaN hpos]

/-- Without a resonance index there are no coefficients, whatever the cutoff gives. -/
theorem lookup_eq_none {t : Table} {f : FltUnit}
    (hj : gridIndex f.resonancePosition Config.RS = none) : lookup t f = none := by
  unfold lookup
  rw [hj]
  cases gridIndex (effectiveCutoff f) Config.FS with
  | none => rfl
  | some gi => rfl

theorem exec_fltProcess_of_lookup_eq_none {n : InstNo} {s : State} (x : F32)
    (hn : n.toNat < Config.NUM_FLT) (hc : lookup s.tab s.flt[n.toNat] = none) :
    exec (.fltProcess n x) s = .fault .tableIndex := by
  rw [exec, execFltProcess, withFlt_inRange hn, hc]

/-- Settles O41: a NaN resonance position finds no coefficients, and PROCESS without them stops. -/
theorem nanResonanceStopsTheLookup : Obligations.NanResonanceStopsTheLookup := by
  intro n x s hn hnan
  exact exec_fltProcess_of_lookup_eq_none x hn (lookup_eq_none (gridIndex_of_isNaN hnan _))

end Sys2Proof.Machine
end
